-- ==== Sys2Proof/Word.lean ====
section
/-! DEFINITION. The word types of the core: field elements, bytes, single bits and the fixed-length sequences made of
them (spec/00_scope.md section 5, spec/10_state.md R10, R11, R14, R18, R19). -/

namespace Sys2Proof

/-- BV8: a byte, an IV byte or a keystream byte (R14, R19). -/
abbrev Byte := BitVec 8

/-- BV7: a field element of GF(2^7), an integer in 0..127 (R50); what one register cell holds (R11). -/
abbrev Elem := BitVec 7

/-- BV1: one keystream bit, an entry of the filter table (R70). -/
abbrev Bit := BitVec 1

/-- The register state R: exactly 23 cells, cell 0 the oldest, cell 22 the newest (R10). -/
abbrev Regs := Vector Elem 23

/-- The keystream buffer KS: 12 bytes (R14). -/
abbrev Keystream := Vector Byte 12

/-- The `key` input: 18 elements of 7 bits (R18). -/
abbrev Key := Vector Elem 18

/-- The `iv` input: 4 bytes (R19). -/
abbrev Iv := Vector Byte 4

end Sys2Proof
end

