-- ==== Sys2Proof/Config.lean ====
section
/-! DEFINITION. What one implementation fixes and the spec leaves OPEN (spec/00_scope.md R5): the three lookup tables,
whose contents are printed nowhere (spec/91_not_in_source.md N1), and the cycles one micro-operation takes.
The fixed sizes and constants of R5 stand in Sys2Proof/Machine/Params.lean. -/

namespace Sys2Proof

/-- A set of the three 128-entry tables, each a total function of a 7-bit index (R68 to R71).
A round and a run are defined for ANY table set (R74), so the operations take one of these; the machine runs with
`Config.tables`. -/
structure Tables where
  /-- `PERM`, read at the newest cell (R68). -/
  perm : Elem → Elem
  /-- `EXP`, read at the oldest cell (R69). -/
  exp : Elem → Elem
  /-- `FILT`, read at the round's feedback value (R70). -/
  filt : Elem → Bit

namespace Config

/-- OPEN (R5, R68): the contents of `PERM`, of which only bijectivity may be assumed. A free value: no body, so nothing
can evaluate an entry (log entry 1). -/
opaque permFree : Equiv.Perm Elem

/-- OPEN (R5, R69): the contents of `EXP` on 1..127, of which only "a permutation of 1..127" may be assumed. A free
value (log entry 1). -/
opaque expFree : Equiv.Perm { a : Elem // a ≠ 0#7 }

/-- OPEN (R5, R70): the contents of `FILT`, of which only balance may be assumed. A free value, given as a bijection
whose lowest bit is the filter bit: every balanced function arises so and nothing else does (log entry 1). -/
opaque filtFree : Equiv.Perm Elem

/-- OPEN (R5, R159): cycles per micro-operation. No rule depends on it and nothing in the model reads it; the model has
no time (R6). -/
opaque cyclesPerUop : Nat

/-- The table set of this hardware (R72): constant, never written, known only through R68 to R70. -/
def tables : Tables where
  perm a := permFree a
  exp a := if h : a ≠ 0#7 then (expFree ⟨a, h⟩).val else 0#7
  filt a := (filtFree a).setWidth 1

end Config

end Sys2Proof
end

