-- ==== Sys2Proof/Machine/Params.lean ====
section
/-! DEFINITION. The fixed parameters of spec/00_scope.md R5 and the hard-wired constants of spec/30_encoding.md R57, each
named once. -/

namespace Sys2Proof.Machine

/-- `N_INIT`: silent rounds (R84). -/
def nInit : Nat := 46

/-- `N_GEN`: rounds that yield a bit (R100). -/
def nGen : Nat := 96

/-- The value of SEQ after the last round, `N_INIT + N_GEN` (R55). -/
def seqEnd : Nat := nInit + nGen

/-- The transitions of one run: LOAD, the rounds and FIN (R106). -/
def runLength : Nat := 1 + nInit + nGen + 1

/-- `IV_MASK`: clears bit 0 and bit 7 (R81). -/
def ivMask : Byte := 0x7E#8

/-- The mask of `IV_XBIT`, bit 7 (R82). -/
def ivXMask : Byte := 0x80#8

/-- `FANOUT_SHIFTS`: the right shifts of the masked high bit (R82; spec/90_conflicts.md C2). -/
def fanoutShifts : List Nat := [7, 5, 3, 1]

/-- `TAPS`: the cells that enter the feedback unchanged (R90; spec/90_conflicts.md C5). -/
def taps : List (Fin 23) := [20, 18, 15, 14, 13, 12, 11, 10, 9, 7, 5, 1]

/-- The newest cell, read through `PERM` (R90). -/
def permCell : Fin 23 := 22

/-- The oldest cell, read through `EXP` (R90). -/
def expCell : Fin 23 := 0

/-- `POLY`: x^7 + x + 1 as a bit image (R65, R67). -/
def poly : Nat := 0x83

end Sys2Proof.Machine
end

