-- ==== Sys2Proof/Machine/Field.lean ====
section
/-! DEFINITION. Arithmetic of GF(2^7) (spec/40_field_and_tables.md R65 to R67). A round only adds; `gmul` is there because
the spec defines it, and no micro-operation calls it. -/

namespace Sys2Proof.Machine

/-- Field addition and subtraction: XOR (R66). -/
def fieldAdd (a b : Elem) : Elem := a ^^^ b

/-- The carry-less product of two 7-bit polynomials, up to 13 bits: the first loop of `gmul` (R67). -/
def clmul (a b : Elem) : BitVec 14 :=
  (List.range 7).foldl
    (fun acc k => if b.getLsbD k then acc ^^^ (a.setWidth 14 <<< k) else acc) 0#14

/-- Reduction modulo x^7 + x + 1, from bit 13 down to bit 7: the second loop of `gmul` (R67). -/
def reduce (p : BitVec 14) : BitVec 14 :=
  (List.range 7).reverse.foldl
    (fun acc k => if acc.getLsbD (k + 7) then acc ^^^ (BitVec.ofNat 14 poly <<< k) else acc) p

/-- `gmul` (R67), bit k the coefficient of x^k (R50, spec/93_implementation_defined.md GK1). -/
def gmul (a b : Elem) : Elem := (reduce (clmul a b)).setWidth 7

/-- `a` multiplied by itself n times over, `a^n`; what spec/95_test_vectors.md T3 tabulates for n = 47. -/
def gpow (a : Elem) : Nat → Elem
  | 0 => 1#7
  | n + 1 => gmul (gpow a n) a

end Sys2Proof.Machine
end

