-- ==== Sys2Proof/Syntax.lean ====
section
/-! DEFINITION. The instructions: one constructor per row of spec/opcode_table.json (spec/30_encoding.md R54, R56, R60),
and the pseudo-operations of R61. -/

namespace Sys2Proof

/-- The core's whole opcode map (R60): four micro-operations without operand fields (R54), the host command START with
its two operands (R56), and the reset input. -/
inductive Instr where
  /-- LOAD, uop 0b00 (R83). Its key and iv are read from the input ports of the transition, not from the code. -/
  | load
  /-- INITR, uop 0b01 (R84): one silent round. -/
  | initr
  /-- GENR, uop 0b10 (R100): one round that yields one keystream bit. -/
  | genr
  /-- FIN, uop 0b11 (R104): the end of a run. -/
  | fin
  /-- START, `start = 1` with `key` and `iv` on the ports in the same transition (R56, R115). -/
  | start (key : Key) (iv : Iv)
  /-- RESET, `rst = 1` (R150). -/
  | reset
  deriving DecidableEq, Repr

/-- The pseudo-operations of R61: INITIALIZE, GENERATE and RUN. The operands of INITIALIZE and RUN are what the `key`
and `iv` ports carry when the LOAD they begin with is taken. -/
inductive Pseudo where
  | initPhase
  | genPhase
  | fullRun
  deriving DecidableEq, Repr

end Sys2Proof
end

