-- ==== Sys2Proof/Machine/State.lean ====
section
/-! DEFINITION. The machine's state as plain data (spec/10_state.md), its faults and refusals, and the state after
reset (R25). -/

namespace Sys2Proof.Machine

/-- The phase register PH, 2 bits (R16). The fourth code is kept, since the register can hold it: no transition
produces it, and a state that holds it is stuck but for RESET (R58, spec/93_implementation_defined.md U3). -/
inductive Phase where
  /-- 0b00: after reset, no run completed since. -/
  | idle
  /-- 0b01: a run is in progress. -/
  | busy
  /-- 0b10: a run has completed, KS holds its 96 bits. -/
  | done
  /-- 0b11: reserved, unreachable. -/
  | reserved
  deriving DecidableEq, Repr

/-- What the host drives on the four input ports in one transition (R18, R19, R20, R114). -/
structure Inputs where
  rst : Bool
  start : Bool
  key : Key
  iv : Iv
  deriving DecidableEq, Repr

/-- The complete state of the core is `(R, KS, SEQ, PH)` (R23). -/
structure State where
  /-- PH: the phase (R16). -/
  ph : Phase
  /-- SEQ: 8 bits, the rounds completed since the last LOAD, the core's program counter (R15). -/
  seq : BitVec 8
  /-- R: 23 cells of 7 bits (R10, R11). -/
  r : Regs
  /-- KS: 12 bytes (R14). -/
  ks : Keystream
  /-- THE MODEL'S OWN, no state of the core: what the host drives on the input ports in the transition to come and in
  those after it, the nearest first (log entry 4). -/
  host : List Inputs
  deriving DecidableEq, Repr

/-- Why the machine stops. Neither is reachable from reset. -/
inductive Fault where
  /-- PH holds the reserved code 0b11 and `rst = 0`: no transition is given (R58, U3). Raised by the step and by START.
  Safe: the machine stops where the spec gives no transition. -/
  | stuckPhase
  /-- SEQ is in 143..255, PH is not 0b11 and `rst = 0`: the state is stuck but for RESET (R15, R58, U4). Raised by the step
  and by START. Safe: the machine stops where the spec gives no transition. -/
  | stuckSequence
  deriving DecidableEq, Repr

/-- Why an instruction has no meaning. -/
inductive Refusal where
  /-- The instruction of that mnemonic has no meaning in the model yet. Raised by no instruction. Safe. -/
  | notModelled (mnemonic : String)
  /-- A micro-operation is asked for in a state in which the sequencer does not take it (R55: which micro-operation runs
  is a function of PH, SEQ and the ports). Raised by LOAD, INITR, GENR and FIN outside their "taken when"; the step
  never raises it. Safe: nothing is said of a transition the core does not make (log entry 5). -/
  | notSelected
  deriving DecidableEq, Repr

/-- The machine after reset (R25, R150): all zero, IDLE. Nothing is scheduled on the input ports (log entry 4). -/
def State.reset : State where
  ph := .idle
  seq := 0#8
  r := Vector.replicate 23 0#7
  ks := Vector.replicate 12 0#8
  host := []

end Sys2Proof.Machine
end

