-- ==== Sys2Proof/Machine/Operands.lean ====
section
/-! DEFINITION. Where operands come from: the input ports, and the assembly of the key and IV into register cells
(spec/41_initializer.md R80 to R83); the optional flat buses of spec/20_memory.md R35. -/

namespace Sys2Proof.Machine

/-- The ports when the host does nothing: `rst = 0` and `start = 0`, so that `key` and `iv` are not read (R83, R116);
they are set to zero (log entry 4). -/
def Inputs.quiet : Inputs := ⟨false, false, Vector.replicate 18 0#7, Vector.replicate 4 0#8⟩

/-- The ports when the host raises `start` with a key and an IV (R56). -/
def Inputs.startWith (key : Key) (iv : Iv) : Inputs := ⟨false, true, key, iv⟩

/-- The ports when the host raises `rst` (R150). -/
def Inputs.resetPulse : Inputs := { Inputs.quiet with rst := true }

/-- What the input ports carry in the transition to come: the head of the host's schedule, quiet once it is used up. -/
def State.inputs (s : State) : Inputs := s.host.headD Inputs.quiet

/-- An IV byte as a cell: masked to bits 6..1, not shifted (R81). -/
def ivCell (b : Byte) : Elem := (b &&& ivMask).setWidth 7

/-- `FAN`: the masked high bit of IV byte 0 shifted right four ways and ORed (R82). -/
def fan (b : Byte) : Elem :=
  (fanoutShifts.foldl (fun acc k => acc ||| ((b &&& ivXMask) >>> k)) 0#8).setWidth 7

/-- `LOADV`: the loaded register state (R83). Cells 0..17 are the key (R80), cells 18..21 the masked IV bytes (R81),
cell 22 the fan-out (R82). -/
def loadV (key : Key) (iv : Iv) : Regs :=
  Vector.ofFn fun j =>
    if h : j.val < 18 then key[j.val]
    else if h' : j.val < 22 then ivCell (iv[j.val - 18]'(by omega))
    else fan iv[0]

/-- A list of fields of one width laid side by side, the first in the lowest bits. -/
def flatNat (w : Nat) : List Nat → Nat
  | [] => 0
  | x :: xs => x + 2 ^ w * flatNat w xs

/-- `key_flat` (R35): `key_flat[7j+6 : 7j] = key[j]`. -/
def keyFlat (key : Key) : BitVec 126 := BitVec.ofNat 126 (flatNat 7 (key.toList.map BitVec.toNat))

/-- `iv_flat` (R35): `iv_flat[8k+7 : 8k] = iv[k]`. -/
def ivFlat (iv : Iv) : BitVec 32 := BitVec.ofNat 32 (flatNat 8 (iv.toList.map BitVec.toNat))

/-- `ks_flat` (R35): `ks_flat[8b+7 : 8b] = KS[b]`. -/
def ksFlat (ks : Keystream) : BitVec 96 := BitVec.ofNat 96 (flatNat 8 (ks.toList.map BitVec.toNat))

end Sys2Proof.Machine
end

