-- ==== Sys2Proof/Machine/Ops.lean ====
section
/-! DEFINITION. The named operations over the register state and the keystream buffer: the feedback round
(spec/42_feedback_round.md), keystream bits (spec/20_memory.md R33), the source's functions initialize, generate and run
(R85, R105, R106), and the effect of each transition on the state.
There is no exception entry and no return from one: the core has no trap mechanism (spec/60_exceptions.md R138, R139), and
the one error of the spec is a return value of the byte-level wrapper (Sys2Proof/Machine/Wrapper.lean). -/

namespace Sys2Proof.Machine

/-- The XOR of the plain tap cells. -/
def tapSum (r : Regs) : Elem := taps.foldl (fun acc j => fieldAdd acc r[j]) 0#7

/-- `FB`: the permuted newest cell, the twelve taps and the exponentiated oldest cell, XORed (R90). -/
def feedback (t : Tables) (r : Regs) : Elem :=
  fieldAdd (fieldAdd (t.perm r[permCell]) (tapSum r)) (t.exp r[expCell])

/-- The shift: every cell moves one place down and `x` enters as the newest (R92). -/
def shiftIn (r : Regs) (x : Elem) : Regs :=
  Vector.ofFn fun j => if h : j.val < 22 then r[j.val + 1] else x

/-- `STEP`: one feedback round, the value computed from the state before the shift (R92, R93). -/
def stepRegs (t : Tables) (r : Regs) : Regs × Elem := (shiftIn r (feedback t r), feedback t r)

/-- The register state after n rounds. -/
def roundsFrom (t : Tables) (r : Regs) : Nat → Regs
  | 0 => r
  | n + 1 => (stepRegs t (roundsFrom t r n)).1

/-- `KSBit(i)`: bit `7 - (i mod 8)` of byte `i div 8` (R33). -/
def ksBit (ks : Keystream) (i : Nat) : Bool := (ks.toList.getD (i / 8) 0#8).getLsbD (7 - i % 8)

/-- The bit z of keystream position i as a byte: `zext_8(z) << (7 - (i mod 8))` (R33). -/
def ksMask (i : Nat) (z : Bit) : Byte := z.setWidth 8 <<< (7 - i % 8)

/-- `KSBitSet(i, z)`: ORs z into bit i and clears nothing (R33). -/
def ksBitSet (ks : Keystream) (i : Nat) (z : Bit) : Keystream :=
  Vector.ofFn fun b => if b.val = i / 8 then ks[b] ||| ksMask i z else ks[b]

/-- A zeroed keystream buffer (R83, R156). -/
def zeroKs : Keystream := Vector.replicate 12 0#8

/-- A zeroed register state (R104, R150). -/
def zeroRegs : Regs := Vector.replicate 23 0#7

/-- `initialize`: LOADV and then the silent rounds (R85). -/
def initializeRegs (t : Tables) (key : Key) (iv : Iv) : Regs := roundsFrom t (loadV key iv) nInit

/-- The loop of `generate` after n of its rounds: R and KS (R105). -/
def generateLoop (t : Tables) (r : Regs) : Nat → Regs × Keystream
  | 0 => (r, zeroKs)
  | i + 1 =>
    let (r', fb) := stepRegs t (generateLoop t r i).1
    (r', ksBitSet (generateLoop t r i).2 i (t.filt fb))

/-- `generate` (R105). The final R is dropped. -/
def generateKs (t : Tables) (r : Regs) : Keystream := (generateLoop t r nGen).2

/-- `run(key, iv) = generate(initialize(key, iv))` (R106). -/
def runKs (t : Tables) (key : Key) (iv : Iv) : Keystream := generateKs t (initializeRegs t key iv)

/-- `run` of a test build with other round counts, at most 96 filtered rounds (spec/95_test_vectors.md S9;
spec/92_eei_decisions.md D22). Not the hardware's function, but at 46 and 96. -/
def runKsWith (t : Tables) (initRounds genRounds : Nat) (key : Key) (iv : Iv) : Keystream :=
  (generateLoop t (roundsFrom t (loadV key iv) initRounds) genRounds).2

/-- The effect of RESET (R150). The host's schedule is not the core's and stays. -/
def State.cleared (s : State) : State :=
  { s with r := zeroRegs, ks := zeroKs, seq := 0#8, ph := .idle }

/-- The effect of LOAD (R83). -/
def State.loaded (key : Key) (iv : Iv) (s : State) : State :=
  { s with r := loadV key iv, ks := zeroKs, seq := 0#8, ph := .busy }

/-- The effect of INITR (R84): a round whose feedback value is discarded. -/
def State.silentRound (t : Tables) (s : State) : State :=
  { s with r := (stepRegs t s.r).1, seq := s.seq + 1#8 }

/-- The keystream bit index of a GENR, `i = SEQ - 46`, SEQ read before the increment (R15, R100). -/
def State.bitIndex (s : State) : Nat := s.seq.toNat - nInit

/-- The effect of GENR (R100): a round whose feedback value is filtered to one bit of KS. -/
def State.filteredRound (t : Tables) (s : State) : State :=
  { s with
    r := (stepRegs t s.r).1
    ks := ksBitSet s.ks s.bitIndex (t.filt (stepRegs t s.r).2)
    seq := s.seq + 1#8 }

/-- The effect of FIN (R104). -/
def State.finished (s : State) : State := { s with r := zeroRegs, ph := .done }

end Sys2Proof.Machine
end

