-- ==== Sys2Proof/Machine/Generator.lean ====
section
/-! DEFINITION. The keystream generator's micro-operations GENR and FIN (spec/43_keystream_generator.md R100, R104). -/

namespace Sys2Proof.Machine

/-- GENR is taken when PH is BUSY, SEQ is in 46..141 and `rst = 0` (R55, R100). -/
abbrev State.selectsGenr (s : State) : Prop :=
  s.inputs.rst = false ∧ s.ph = .busy ∧ nInit ≤ s.seq.toNat ∧ s.seq.toNat < seqEnd

/-- FIN is taken when PH is BUSY, SEQ is 142 and `rst = 0` (R55, R104). -/
abbrev State.selectsFin (s : State) : Prop :=
  s.inputs.rst = false ∧ s.ph = .busy ∧ s.seq.toNat = seqEnd

/-- GENR (R100): one round, its filtered feedback value ORed into keystream bit SEQ - 46. -/
def execGenr (s : State) : Host.Outcome State Fault Refusal :=
  if s.selectsGenr then .next (s.filteredRound Config.tables) else .refused .notSelected

/-- FIN (R104): R is zeroed and PH becomes DONE; KS and SEQ stay. -/
def execFin (s : State) : Host.Outcome State Fault Refusal :=
  if s.selectsFin then .next s.finished else .refused .notSelected

end Sys2Proof.Machine
end

