-- ==== Sys2Proof/WellFormed.lean ====
section
/-! DEFINITION. What is well formed: a table set (spec/40_field_and_tables.md R74), the byte images of a key and an IV
(spec/30_encoding.md R51, R52), and an instruction. -/

namespace Sys2Proof

/-- The 128 field elements, 0..127 in order. -/
def allElems : List Elem := (List.range 128).map (BitVec.ofNat 7)

namespace Tables

/-- R68, R74: every value occurs exactly once among `PERM[0]` .. `PERM[127]`. -/
def permOk (t : Tables) : Bool :=
  allElems.all fun v => allElems.countP (fun a => t.perm a == v) == 1

/-- R69, R74: `EXP[0] = 0`. -/
def expZeroOk (t : Tables) : Bool := t.exp 0#7 == 0#7

/-- R69, R74: every value 1..127 is `EXP[a]` of exactly one a in 1..127. -/
def expOk (t : Tables) : Bool :=
  allElems.tail.all fun v => allElems.tail.countP (fun a => t.exp a == v) == 1

/-- R70, R74: exactly 64 entries of `FILT` are 1. -/
def filtOk (t : Tables) : Bool := allElems.countP (fun a => t.filt a == 1#1) == 64

/-- `wf_tables` of R74. -/
def wf (t : Tables) : Bool := t.permOk && t.expZeroOk && t.expOk && t.filtOk

end Tables

/-- R121, R131: a key buffer has exactly 18 bytes. -/
def keyLengthOk (kb : List Byte) : Bool := kb.length == 18

/-- R121, R131: an IV buffer has exactly 4 bytes. -/
def ivLengthOk (ib : List Byte) : Bool := ib.length == 4

/-- R121, R131: an output buffer has exactly 12 bytes. -/
def outLengthOk (n : Nat) : Bool := n == 12

/-- R51: a key byte whose bit 7 is set is not an encoding of anything. -/
def keyRangeOk (kb : List Byte) : Bool := kb.all fun b => b.toNat < 128

/-- Every instruction term is well formed: the operands of START have the widths of the ports by type, so that lengths
cannot be wrong and key elements cannot exceed 127 (R115), and every IV byte is accepted (R135). -/
def Instr.wf : Instr → Bool
  | .load => true
  | .initr => true
  | .genr => true
  | .fin => true
  | .start _ _ => true
  | .reset => true

end Sys2Proof
end

