-- ==== Sys2Proof/Decode.lean ====
section
/-! DEFINITION. Encodings (spec/30_encoding.md): the decoder from bytes to instructions, total and rejecting by name;
after it the encoder; and the reading of a word of spec/opcode_table.json.
The core fetches nothing (R43, R54): a micro-operation code is the name of a transition, and a host command is the level
of an input pin. A code is therefore the wire it stands on together with its bytes (log entry 2). -/

namespace Sys2Proof

/-- Where a code stands: the sequencer's 2-bit micro-operation code (R54), the `start` pin with the `key` and `iv` ports
(R56), or the `rst` pin (R60). -/
inductive Wire where
  | uop
  | start
  | rst
  deriving DecidableEq, Repr

/-- A code: the wire and the byte image of what it carries, in the order R61 writes it. -/
structure Code where
  wire : Wire
  bytes : List Byte
  deriving DecidableEq, Repr

/-- Why bytes are no code. -/
inductive DecodeError where
  /-- The wire does not carry that many bytes. -/
  | wrongLength
  /-- A bit above the field of the format is set (R54, R56 give those formats no such bit). -/
  | reservedBits
  /-- The command pin is 0: `start = 0` is no command (R56), nor is `rst = 0`. -/
  | noCommand
  /-- A key byte with bit 7 set (R51). -/
  | keyElementOutOfRange
  deriving DecidableEq, Repr

/-- What the decoder answers. -/
inductive Decoded where
  | instr (i : Instr)
  | rejected (e : DecodeError)
  deriving DecidableEq, Repr

/-- The key elements of 18 key bytes: each byte truncated to 7 bits (R121; the bytes are below 128 where this is used,
R51, so nothing is masked off). -/
def keyOfBytes (kb : List Byte) : Key := Vector.ofFn fun j => (kb.getD j.val 0#8).setWidth 7

/-- The IV of 4 IV bytes, taken as they stand (R52, R121). -/
def ivOfBytes (ib : List Byte) : Iv := Vector.ofFn fun k => ib.getD k.val 0#8

/-- The byte image of a key element or a cell: `zext_8` (R11, R51). -/
def Elem.byteImage (a : Elem) : Byte := a.setWidth 8

/-- The byte image of a key: 18 bytes, `key[0]` first (R51, R61). -/
def keyBytes (key : Key) : List Byte := key.toList.map Elem.byteImage

/-- The byte image of an IV: 4 bytes, `iv[0]` first (R52, R61). -/
def ivBytes (iv : Iv) : List Byte := iv.toList

/-- The 2-bit `op` field (R54). All four codes are used. -/
def decodeUop (op : BitVec 2) : Instr :=
  if op = 0b00#2 then .load
  else if op = 0b01#2 then .initr
  else if op = 0b10#2 then .genr
  else .fin

/-- A byte that carries a micro-operation code in bits 1:0 and nothing else (R54). -/
def decodeUopByte (b : Byte) : Decoded :=
  if b.toNat < 4 then .instr (decodeUop (b.setWidth 2)) else .rejected .reservedBits

/-- The operands of START behind a raised `start` pin: 18 key bytes, then 4 IV bytes (R56, R61). -/
def decodeStartOperands (operands : List Byte) : Decoded :=
  if operands.length ≠ 22 then .rejected .wrongLength
  else if keyRangeOk (operands.take 18) then
    .instr (.start (keyOfBytes (operands.take 18)) (ivOfBytes (operands.drop 18)))
  else .rejected .keyElementOutOfRange

/-- A byte that carries a one-bit pin in bit 0 and nothing else; `k` is what a raised pin stands for. -/
def decodePin (pin : Byte) (k : Decoded) : Decoded :=
  if pin = 1#8 then k
  else if pin = 0#8 then .rejected .noCommand
  else .rejected .reservedBits

/-- The decoder: total on any bytes. -/
def decode (c : Code) : Decoded :=
  match c.wire, c.bytes with
  | .uop, [b] => decodeUopByte b
  | .uop, _ => .rejected .wrongLength
  | .start, pin :: operands => decodePin pin (decodeStartOperands operands)
  | .start, [] => .rejected .wrongLength
  | .rst, [pin] => decodePin pin (.instr .reset)
  | .rst, _ => .rejected .wrongLength

/-- The encoder, from the same tables: R54 for the micro-operations, R56 and R61 for START, R60 for RESET. -/
def encode : Instr → Code
  | .load => ⟨.uop, [0x00#8]⟩
  | .initr => ⟨.uop, [0x01#8]⟩
  | .genr => ⟨.uop, [0x02#8]⟩
  | .fin => ⟨.uop, [0x03#8]⟩
  | .start key iv => ⟨.start, 0x01#8 :: (keyBytes key ++ ivBytes iv)⟩
  | .reset => ⟨.rst, [0x01#8]⟩

/-- `Decoded` as an option. -/
def Decoded.toOption : Decoded → Option Instr
  | .instr i => some i
  | .rejected _ => none

/-- The instruction of a word numbered as spec/opcode_table.json numbers it.
A row of one bit is in the format HOSTCMD: the `start` pin with `key` and `iv` zero above it. A row of more bits is in the
format UOP. The table writes RESET with the same one-bit word as START, on another pin, and a word alone does not name its
pin: it is read as START (log entry 3). -/
def decodeTableWord (nbits w : Nat) : Option Instr :=
  if nbits = 0 then none
  else if nbits = 1 then
    if w < 2 then (decode ⟨.start, BitVec.ofNat 8 w :: List.replicate 22 0#8⟩).toOption else none
  else if w < 256 then (decode ⟨.uop, [BitVec.ofNat 8 w]⟩).toOption else none

end Sys2Proof
end

