-- ==== Sys2Proof/Machine/Sequencer.lean ====
section
/-! DEFINITION. The sequencer: which transition the core takes next (spec/30_encoding.md R55, spec/44_host_interface.md
R119), the passing of the host's schedule, the placing of an instruction so that the next step takes it, and the
expansion of the pseudo-operations (R61). -/

namespace Sys2Proof.Machine

/-- The transitions of R119, and the two stuck cases of R58 (U3, U4). -/
inductive Transition where
  | reset
  | load
  | hold
  | initr
  | genr
  | fin
  | stuckPhase
  | stuckSequence
  deriving DecidableEq, Repr

/-- The rows of R119 for IDLE and DONE: LOAD if `start = 1`, else a hold, whatever SEQ in its range 0..142 is (R55); with SEQ
in 143..255 the state is stuck (spec/93_implementation_defined.md U4).
DEDUCED (log entry 14, safe): R55's "any" for SEQ here is read as any value of the range R15 gives. -/
def restTransition (start : Bool) (seq : BitVec 8) : Transition :=
  if seqEnd < seq.toNat then .stuckSequence
  else if start then .load else .hold

/-- The first row of R119 that applies, a function of the ports, PH and SEQ (R55). SEQ in 143..255 is stuck but for RESET
in every phase (U4), and so is PH = 0b11 with any SEQ (U3); log entry 8. -/
def selectTransition (inp : Inputs) (ph : Phase) (seq : BitVec 8) : Transition :=
  if inp.rst then .reset
  else match ph with
    | .idle => restTransition inp.start seq
    | .done => restTransition inp.start seq
    | .busy =>
      if seq.toNat < nInit then .initr
      else if seq.toNat < seqEnd then .genr
      else if seq.toNat = seqEnd then .fin
      else .stuckSequence
    | .reserved => .stuckPhase

/-- The transition the core takes from `s`. -/
def State.transition (s : State) : Transition := selectTransition s.inputs s.ph s.seq

/-- A hold is taken when PH is IDLE or DONE, SEQ is in 0..142, `start = 0` and `rst = 0` (R55, R119, U4). -/
abbrev State.selectsHold (s : State) : Prop :=
  s.inputs.rst = false ∧ (s.ph = .idle ∨ s.ph = .done) ∧ s.seq.toNat ≤ seqEnd ∧ s.inputs.start = false

/-- The instruction that names a transition; a hold and a stuck state have none (R55). -/
def Transition.instr : Transition → Option Instr
  | .reset => some .reset
  | .load => some .load
  | .hold => none
  | .initr => some .initr
  | .genr => some .genr
  | .fin => some .fin
  | .stuckPhase => none
  | .stuckSequence => none

/-- One transition passes: the ports carry what the host schedules next. -/
def State.passed (s : State) : State := { s with host := s.host.tail }

/-- What the step adds around a meaning: when it answers a next state, the host's schedule moves on by one. -/
def passTransition : Host.Outcome State Fault Refusal → Host.Outcome State Fault Refusal
  | .next t => .next t.passed
  | .fault f => .fault f
  | .refused q => .refused q

/-- `s` with the ports of the transition to come changed by `f`. -/
def State.onPorts (f : Inputs → Inputs) (s : State) : State := { s with host := f s.inputs :: s.host.tail }

/-- `s` changed, as little as it takes, so that the next step takes `i`: the ports raised or lowered, PH and SEQ moved
into the row of R119 that selects `i` where they are not in it already (log entry 6). -/
def State.placed (i : Instr) (s : State) : State :=
  match i with
  | .load =>
    { s.onPorts (fun p => { p with rst := false, start := true }) with
      ph := if s.ph = .done then .done else .idle
      seq := if s.seq.toNat ≤ seqEnd then s.seq else 0#8 }
  | .initr =>
    { s.onPorts (fun p => { p with rst := false }) with
      ph := .busy, seq := if s.seq.toNat < nInit then s.seq else 0#8 }
  | .genr =>
    { s.onPorts (fun p => { p with rst := false }) with
      ph := .busy
      seq := if nInit ≤ s.seq.toNat ∧ s.seq.toNat < seqEnd then s.seq else BitVec.ofNat 8 nInit }
  | .fin =>
    { s.onPorts (fun p => { p with rst := false }) with ph := .busy, seq := BitVec.ofNat 8 seqEnd }
  | .start key iv =>
    { s.onPorts (fun _ => Inputs.startWith key iv) with
      ph := if s.ph = .done then .done else .idle
      seq := if s.seq.toNat ≤ seqEnd then s.seq else 0#8 }
  | .reset => s.onPorts (fun p => { p with rst := true })

/-- The expansions of R61. GENERATE is listed without the FIN that follows it in hardware. -/
def expandPseudo : Pseudo → List Instr
  | .initPhase => .load :: List.replicate nInit .initr
  | .genPhase => List.replicate nGen .genr
  | .fullRun => (.load :: List.replicate nInit .initr) ++ List.replicate nGen .genr ++ [.fin]

end Sys2Proof.Machine
end

