-- ==== Sys2Proof/Machine/HostCommands.lean ====
section
/-! DEFINITION. The host's inputs as instructions: START (spec/44_host_interface.md R115, R116) and RESET
(spec/70_reset_and_hazards.md R150, R151). -/

namespace Sys2Proof.Machine

/-- START with operands `key` and `iv` (R115): the host raises `start` with them on the ports in this transition, the
`rst` pin being what it is. In IDLE and DONE the core takes LOAD with these operands; in BUSY the command is ignored and
the core takes the round or FIN it would have taken anyway (R116); a raised `rst` wins (R137, R151). In the stuck states
nothing but RESET is taken (U3, U4). -/
def execStart (key : Key) (iv : Iv) (s : State) : Host.Outcome State Fault Refusal :=
  match selectTransition { s.inputs with start := true, key := key, iv := iv } s.ph s.seq with
  | .reset => .next s.cleared
  | .load => .next (s.loaded key iv)
  | .hold => .next s
  | .initr => .next (s.silentRound Config.tables)
  | .genr => .next (s.filteredRound Config.tables)
  | .fin => .next s.finished
  | .stuckPhase => .fault .stuckPhase
  | .stuckSequence => .fault .stuckSequence

/-- RESET (R150): the host raises `rst`; taken in any phase, the stuck states included (U3, U4). -/
def execReset (s : State) : Host.Outcome State Fault Refusal := .next s.cleared

end Sys2Proof.Machine
end

