-- ==== Sys2Proof/Machine/Initializer.lean ====
section
/-! DEFINITION. The initializer's micro-operations LOAD and INITR (spec/41_initializer.md R83, R84). -/

namespace Sys2Proof.Machine

/-- LOAD is taken when PH is IDLE or DONE, `start = 1` and `rst = 0` (R55, R83), whatever SEQ in its range 0..142 is; with
SEQ in 143..255 the core is stuck (U4; log entry 14). -/
abbrev State.selectsLoad (s : State) : Prop :=
  s.inputs.rst = false ∧ (s.ph = .idle ∨ s.ph = .done) ∧ s.seq.toNat ≤ seqEnd ∧ s.inputs.start = true

/-- INITR is taken when PH is BUSY, SEQ is in 0..45 and `rst = 0` (R55, R84). -/
abbrev State.selectsInitr (s : State) : Prop :=
  s.inputs.rst = false ∧ s.ph = .busy ∧ s.seq.toNat < nInit

/-- LOAD (R83): the key and IV on the ports of this transition fill R; KS and SEQ are zeroed; PH becomes BUSY. -/
def execLoad (s : State) : Host.Outcome State Fault Refusal :=
  if s.selectsLoad then .next (s.loaded s.inputs.key s.inputs.iv) else .refused .notSelected

/-- INITR (R84): one round, SEQ counts it, nothing is emitted. -/
def execInitr (s : State) : Host.Outcome State Fault Refusal :=
  if s.selectsInitr then .next (s.silentRound Config.tables) else .refused .notSelected

end Sys2Proof.Machine
end

