-- ==== Sys2Proof/Machine/Dispatch.lean ====
section
/-! DEFINITION. The dispatch of an instruction to its meaning, one arm per constructor. -/

namespace Sys2Proof.Machine

def exec (i : Instr) (s : State) : Host.Outcome State Fault Refusal :=
  match i with
  | .load => Sys2Proof.Machine.execLoad s
  | .initr => Sys2Proof.Machine.execInitr s
  | .genr => Sys2Proof.Machine.execGenr s
  | .fin => Sys2Proof.Machine.execFin s
  | .start key iv => Sys2Proof.Machine.execStart key iv s
  | .reset => Sys2Proof.Machine.execReset s

end Sys2Proof.Machine
end

