-- ==== Sys2Proof/Machine/Step.lean ====
section
/-! DEFINITION. One step of the machine: one transition of spec/44_host_interface.md R119. -/

namespace Sys2Proof.Machine

/-- The step (R119): the transition that PH, SEQ and the ports select, then the host's schedule moves on. -/
def step (s : State) : Host.Outcome State Fault Refusal :=
  passTransition <|
    match s.transition with
    | .reset => exec .reset s
    | .load => exec .load s
    | .hold => .next s
    | .initr => exec .initr s
    | .genr => exec .genr s
    | .fin => exec .fin s
    | .stuckPhase => .fault .stuckPhase
    | .stuckSequence => .fault .stuckSequence

/-- `s` with the instruction of that table word placed where the next step takes it (log entry 6); `s` itself where the
word is no instruction. -/
def State.withFetchWord (s : State) (nbits w : Nat) : State :=
  match decodeTableWord nbits w with
  | some i => s.placed i
  | none => s

end Sys2Proof.Machine
end

