-- ==== Sys2Proof/Machine/Flags.lean ====
section
/-! DEFINITION. The status flags and output ports, all functions of PH and KS (spec/10_state.md R16, R17;
spec/44_host_interface.md R114, R117, R118). There are no condition codes (R17). -/

namespace Sys2Proof.Machine

/-- The 2-bit code of a phase (R16). -/
def Phase.code : Phase → BitVec 2
  | .idle => 0b00#2
  | .busy => 0b01#2
  | .done => 0b10#2
  | .reserved => 0b11#2

/-- `busy = (PH == BUSY)` (R17). -/
def State.busy (s : State) : Bool := s.ph == .busy

/-- `done = (PH == DONE)` (R17). -/
def State.done (s : State) : Bool := s.ph == .done

/-- What the host may read on `ks`: KS while `done = 1` and no value otherwise (R117). -/
def State.ksPort (s : State) : Option Keystream := if s.done then some s.ks else none

/-- The output ports (R114). -/
structure Outputs where
  busy : Bool
  done : Bool
  ks : Option Keystream
  deriving DecidableEq, Repr

/-- What the host sees of a state; it has no port to R, SEQ or PH (R13, R39). -/
def State.outputs (s : State) : Outputs := ⟨s.busy, s.done, s.ksPort⟩

end Sys2Proof.Machine
end

