-- ==== Sys2Proof/Machine/Trace.lean ====
section
/-! DEFINITION. Several transitions in a row, and the trace a validation view lists (spec/30_encoding.md R61,
spec/60_exceptions.md R143). -/

namespace Sys2Proof.Machine

/-- The state after n transitions, stopping at the first fault or refusal. -/
def stepMany : Nat → State → Host.Outcome State Fault Refusal
  | 0, s => .next s
  | n + 1, s =>
    match step s with
    | .next t => stepMany n t
    | .fault f => .fault f
    | .refused q => .refused q

/-- The transitions taken by the next n steps, oldest first (R61, R143: for validation only). -/
def traceOf : Nat → State → List Transition
  | 0, _ => []
  | n + 1, s =>
    s.transition ::
      match step s with
      | .next t => traceOf n t
      | .fault _ => []
      | .refused _ => []

/-- The micro-operation code a transition stands for in a trace (R54, R55). -/
def Transition.uopCode : Transition → Option (BitVec 2)
  | .load => some 0b00#2
  | .initr => some 0b01#2
  | .genr => some 0b10#2
  | .fin => some 0b11#2
  | .reset => none
  | .hold => none
  | .stuckPhase => none
  | .stuckSequence => none

end Sys2Proof.Machine
end

