-- ==== Sys2Proof/Machine/Wrapper.lean ====
section
/-! DEFINITION. The byte-level wrapper `run_bytes` (spec/44_host_interface.md R121; spec/60_exceptions.md R131 to R134): no
part of the hardware block, but the one place where the spec's one error, `InvalidInputLength`, is raised. -/

namespace Sys2Proof.Machine

/-- Which operand had the wrong length (R131). -/
inductive LengthOperand where
  | key
  | iv
  | out
  deriving DecidableEq, Repr

/-- Why a call has no meaning. -/
inductive WrapperRefusal where
  /-- A key byte of 128 or more (R134). Safe. -/
  | keyElementOutOfRange
  /-- The core the call would use is not in IDLE or DONE, or is stuck there (U4), so that a START would not begin this run
  (R116, R124). Raised by `callRunBytes`. Safe (log entry 7). -/
  | coreNotReady
  deriving DecidableEq, Repr

/-- What a call answers (R121). -/
inductive WrapperResult where
  | ok (ks : Keystream)
  | invalidInputLength (what : LengthOperand)
  | refused (why : WrapperRefusal)
  deriving DecidableEq, Repr

/-- The checks of `run_bytes` in their order: key length, IV length, output length, key element range; the first failure
is the one reported (R121, R137). -/
def checkBytes (kb ib : List Byte) (outlen : Nat) : Option WrapperResult :=
  if keyLengthOk kb = false then some (.invalidInputLength .key)
  else if ivLengthOk ib = false then some (.invalidInputLength .iv)
  else if outLengthOk outlen = false then some (.invalidInputLength .out)
  else if keyRangeOk kb = false then some (.refused .keyElementOutOfRange)
  else none

/-- `run_bytes` as a function (R121). -/
def runBytes (t : Tables) (kb ib : List Byte) (outlen : Nat) : WrapperResult :=
  match checkBytes kb ib outlen with
  | some failure => failure
  | none => .ok (runKs t (keyOfBytes kb) (ivOfBytes ib))

/-- What a call can touch: the core it uses and the caller's output buffer. -/
structure Caller where
  core : State
  out : List Byte
  deriving DecidableEq, Repr

/-- The core after one whole run started with `key` and `iv` and nothing else on its ports; the host's own schedule is
put back (R120, R123: copy-in, compute, copy-out). -/
def completedRun (key : Key) (iv : Iv) (core : State) : Host.Outcome State Fault Refusal :=
  match stepMany runLength { core with host := [Inputs.startWith key iv] } with
  | .next t => .next { t with host := core.host }
  | .fault f => .fault f
  | .refused q => .refused q

/-- `run_bytes` as it acts on a core and an output buffer: every check comes before the core is started; a call that
fails leaves both as they were; one that succeeds runs the core to DONE and copies `ks` out (R121, R132). -/
def callRunBytes (kb ib : List Byte) (c : Caller) : WrapperResult × Caller :=
  match checkBytes kb ib c.out.length with
  | some failure => (failure, c)
  | none =>
    if c.core.ph = .idle ∨ c.core.ph = .done then
      match completedRun (keyOfBytes kb) (ivOfBytes ib) c.core with
      | .next t =>
        match t.ksPort with
        | some ks => (.ok ks, ⟨t, ks.toList⟩)
        | none => (.refused .coreNotReady, c)
      | .fault _ => (.refused .coreNotReady, c)
      | .refused _ => (.refused .coreNotReady, c)
    else (.refused .coreNotReady, c)

/-- The result code of R133: 0 OK, 1 `InvalidInputLength`; a refused call has no meaning and no code. -/
def WrapperResult.code : WrapperResult → Option Nat
  | .ok _ => some 0
  | .invalidInputLength _ => some 1
  | .refused _ => none

/-- The recorded operand's value of R133. -/
def LengthOperand.code : LengthOperand → Nat
  | .key => 0
  | .iv => 1
  | .out => 2

end Sys2Proof.Machine
end

