-- ==== Sys2Proof/Safety.lean ====
section
/-! DEFINITION. What a state of a safe run looks like, in the terms the statements use. -/

namespace Sys2Proof.Machine

/-- The shape of a reachable state (R15, R16, R24, R25, R58): PH is not the reserved code; in IDLE everything is zero; in
BUSY SEQ is at most 142 and every keystream bit not yet produced is zero; in DONE SEQ is 142 and R is zero. -/
structure State.Inv (s : State) : Prop where
  phaseLegal : s.ph ≠ .reserved
  idleZero : s.ph = .idle → s.r = zeroRegs ∧ s.ks = zeroKs ∧ s.seq = 0#8
  busySeq : s.ph = .busy → s.seq.toNat ≤ seqEnd
  busyUnwritten : s.ph = .busy → ∀ i < nGen, s.seq.toNat ≤ nInit + i → ksBit s.ks i = false
  doneEnded : s.ph = .done → s.seq.toNat = seqEnd ∧ s.r = zeroRegs

/-- `s` is in the run of `key` and `iv`, or holds its result (R85, R105, R117): while BUSY, R is the loaded state after
SEQ rounds and KS holds the bits of the rounds after the 46th; while DONE, KS is `run(key, iv)`. -/
structure State.InRunOf (key : Key) (iv : Iv) (s : State) : Prop where
  busyRegs : s.ph = .busy → s.r = roundsFrom Config.tables (loadV key iv) s.seq.toNat
  busyKs : s.ph = .busy →
    s.ks = (generateLoop Config.tables (initializeRegs Config.tables key iv) s.bitIndex).2
  doneKs : s.ph = .done → s.ks = runKs Config.tables key iv

/-- Whatever `ks` shows is the keystream of some key and IV, and a run in progress is that of some key and IV. -/
def State.Genuine (s : State) : Prop := s.Inv ∧ ∃ key iv, s.InRunOf key iv

/-- No reset among the next n transitions: the premise the spec asks a claim about a run to name (R151). -/
def State.NoResetFor (n : Nat) (s : State) : Prop := ∀ p ∈ s.host.take n, p.rst = false

/-- The core's own part of the state: the tuple of R23, without the host's schedule. -/
def State.sameCore (a b : State) : Prop := a.r = b.r ∧ a.ks = b.ks ∧ a.seq = b.seq ∧ a.ph = b.ph

/-- The 25 bits of an IV that take effect (R52, R86): bits 6..1 of every byte and bit 7 of byte 0. -/
def ivEffective (iv : Iv) : Iv :=
  #v[iv[0] &&& 0xFE#8, iv[1] &&& 0x7E#8, iv[2] &&& 0x7E#8, iv[3] &&& 0x7E#8]

end Sys2Proof.Machine
end

