-- ==== Sys2Proof/Certificates/Slice0/Obligations.lean ====
section
/-! DEFINITION. The statements about the core, written from the numbered rules of spec/. Where a rule carries the spec's own
decision mark or a `[derived: ...]` mark, the docstring says so. -/

open Sys2Proof Sys2Proof.Machine

/-! ### Encodings -/

/-- Every instruction, with every operand at every value its ports can carry, decodes back from its code
(spec/30_encoding.md R51, R52, R54, R56, R61). The byte layout is the model's (log entry 2). -/
def Obligations.DecodeOfEncode : Prop :=
  ∀ i : Instr, decode (encode i) = .instr i

/-- Bytes the decoder accepts are exactly the code of the instruction it answers: no bit of a code is dropped
(log entry 2). -/
def Obligations.AcceptedBytesAreTheCode : Prop :=
  ∀ (c : Code) (i : Instr), decode c = .instr i → encode i = c

/-- The four 2-bit codes of R54; a byte with a bit above the field is rejected by name; a raised pin is START or RESET and
a lowered one no command (R56, R60). A sanity statement on written-out words. That a code is a byte image on a wire, that a
bit above the 2-bit field is rejected, and the order pin, key, IV are the model's choice (log entry 2, DESIGN CHOICE). -/
def Obligations.OpcodeMapWordsDecode : Prop :=
  decode ⟨.uop, [0b00000000#8]⟩ = .instr .load ∧
  decode ⟨.uop, [0b00000001#8]⟩ = .instr .initr ∧
  decode ⟨.uop, [0b00000010#8]⟩ = .instr .genr ∧
  decode ⟨.uop, [0b00000011#8]⟩ = .instr .fin ∧
  decode ⟨.rst, [0b00000001#8]⟩ = .instr .reset ∧
  decode ⟨.start, 0b00000001#8 :: (List.replicate 18 0x7F#8 ++ [0x92#8, 0x34#8, 0x56#8, 0x78#8])⟩
    = .instr (.start (Vector.replicate 18 0x7F#7) #v[0x92#8, 0x34#8, 0x56#8, 0x78#8]) ∧
  decode ⟨.uop, [0b00000100#8]⟩ = .rejected .reservedBits ∧
  decode ⟨.rst, [0b00000000#8]⟩ = .rejected .noCommand

/-- A key byte with bit 7 set is not an encoding of anything: START with one is rejected by that name, and without one it
is read (R51). The IV bytes are never a reason to reject (R52). That START is a raised pin byte followed by 18 key bytes and
4 IV bytes is the model's choice (log entry 2, DESIGN CHOICE). -/
def Obligations.KeyByteWithTopBitIsNoCode : Prop :=
  ∀ kb ib : List Byte, kb.length = 18 → ib.length = 4 →
    ((∃ b ∈ kb, b.getLsbD 7 = true) →
      decode ⟨.start, 0x01#8 :: (kb ++ ib)⟩ = .rejected .keyElementOutOfRange) ∧
    ((∀ b ∈ kb, b.getLsbD 7 = false) →
      decode ⟨.start, 0x01#8 :: (kb ++ ib)⟩ = .instr (.start (keyOfBytes kb) (ivOfBytes ib)))

/-- The optional flat buses of R35 carry each element in the bits the rule names (the spec's decision D16). -/
def Obligations.FlatBusesCarryEachElement : Prop :=
  (∀ (key : Key) (j : Nat) (h : j < 18), (keyFlat key).extractLsb' (7 * j) 7 = key[j]) ∧
  (∀ (iv : Iv) (k : Nat) (h : k < 4), (ivFlat iv).extractLsb' (8 * k) 8 = iv[k]) ∧
  (∀ (ks : Keystream) (b : Nat) (h : b < 12), (ksFlat ks).extractLsb' (8 * b) 8 = ks[b])

/-! ### Fields and tables -/

/-- `gmul` on the corner cases R67 lists. -/
def Obligations.FieldProductCorners : Prop :=
  (∀ a : Elem, gmul a 0x00#7 = 0x00#7) ∧ (∀ a : Elem, gmul a 0x01#7 = a) ∧
  gmul 0x02#7 0x40#7 = 0x03#7 ∧ gmul 0x03#7 0x03#7 = 0x05#7 ∧
  gmul 0x7F#7 0x7F#7 = 0x2B#7 ∧ gmul 0x40#7 0x40#7 = 0x60#7

/-- Multiplication distributes over field addition on both sides, as in a field (R65, R66, R67). -/
def Obligations.FieldProductDistributes : Prop :=
  ∀ a b c : Elem, gmul (fieldAdd a b) c = fieldAdd (gmul a c) (gmul b c) ∧
    gmul c (fieldAdd a b) = fieldAdd (gmul c a) (gmul c b)

/-- The tables the machine runs with satisfy everything R74 asks of a table set, although no entry of them is known. -/
def Obligations.MachineTablesAreWellFormed : Prop := Config.tables.wf = true

/-- The check of R74 says what R68 to R70 say: `PERM` is a bijection; `EXP[0] = 0` and `EXP` permutes 1..127; `FILT` has
exactly 64 ones. -/
def Obligations.TableCheckMeansTheConstraints : Prop :=
  ∀ t : Tables, t.wf = true ↔
    (Function.Bijective t.perm ∧ t.exp 0#7 = 0#7 ∧
      (∀ v : Elem, v ≠ 0#7 → ∃! a : Elem, a ≠ 0#7 ∧ t.exp a = v) ∧
      (Finset.univ.filter fun a : Elem => t.filt a = 1#1).card = 64)

/-! ### Loading -/

/-- `FAN` is 0x55 when bit 7 is set and 0 otherwise, and cell 22 is loaded with it (R82). -/
def Obligations.FanOutHasTwoValues : Prop :=
  (∀ b : Byte, fan b = if b.getLsbD 7 then 0x55#7 else 0x00#7) ∧
  (∀ (key : Key) (iv : Iv), (loadV key iv)[22] = fan iv[0])

/-- LOAD where it is taken completes: the key fills cells 0..17 unchanged, each IV byte masked with 0x7E fills cells
18..21, cell 22 is the fan-out, KS is zeroed, SEQ is 0, PH is BUSY, and the host's ports are the host's (R80 to R83;
LOAD's effect beyond R is the spec's decision D11). SEQ is in its range (R15): beyond it the state is stuck
(StuckStatesStopByName). -/
def Obligations.LoadCompletes : Prop :=
  ∀ s : State, s.inputs.rst = false → (s.ph = .idle ∨ s.ph = .done) → s.seq.toNat ≤ 142 →
    s.inputs.start = true →
    ∃ t, exec .load s = .next t ∧
      (∀ (j : Nat) (h : j < 18), t.r[j] = s.inputs.key[j]) ∧
      (∀ (k : Nat) (h : k < 4), t.r[18 + k] = (s.inputs.iv[k] &&& 0x7E#8).setWidth 7) ∧
      t.r[22] = (if s.inputs.iv[0].getLsbD 7 then 0x55#7 else 0x00#7) ∧
      (∀ (b : Nat) (h : b < 12), t.ks[b] = 0x00#8) ∧
      t.seq = 0#8 ∧ t.ph = .busy ∧ t.busy = true ∧ t.done = false ∧ t.host = s.host

/-- Two loads give the same register state exactly when the keys are equal and the IVs agree in their 25 effective bits
(R86 a and c, which the spec derives from R80 to R82). -/
def Obligations.LoadDependsOnExactly25IvBits : Prop :=
  ∀ (key key' : Key) (iv iv' : Iv),
    loadV key iv = loadV key' iv' ↔ key = key' ∧ ivEffective iv = ivEffective iv'

/-- Flipping bit 7 of `iv[0]` changes cell 22, between 0x00 and 0x55, and no other cell (R86 d, which the spec derives). -/
def Obligations.ExtraIvBitMovesOnlyCell22 : Prop :=
  ∀ (key : Key) (iv : Iv),
    (∀ (j : Nat) (h : j < 22),
      (loadV key (iv.set 0 (iv[0] ^^^ 0x80#8)))[j] = (loadV key iv)[j]) ∧
    (loadV key (iv.set 0 (iv[0] ^^^ 0x80#8)))[22] = (loadV key iv)[22] ^^^ 0x55#7 ∧
    ((loadV key iv)[22] = 0x00#7 ∨ (loadV key iv)[22] = 0x55#7)

/-- Nothing of an earlier run or of the reset value survives a LOAD: two states whose ports carry the same key and IV are
the same core after it (R153). -/
def Obligations.LoadForgetsThePast : Prop :=
  ∀ a b ta tb : State, a.inputs.key = b.inputs.key → a.inputs.iv = b.inputs.iv →
    exec .load a = .next ta → exec .load b = .next tb → ta.sameCore tb

/-! ### The feedback round -/

/-- The feedback value is the XOR of the fourteen terms R90 writes out. -/
def Obligations.FeedbackIsFourteenTerms : Prop :=
  ∀ (t : Tables) (r : Regs),
    feedback t r = t.perm r[22] ^^^ r[20] ^^^ r[18] ^^^ r[15] ^^^ r[14] ^^^ r[13] ^^^ r[12] ^^^
      r[11] ^^^ r[10] ^^^ r[9] ^^^ r[7] ^^^ r[5] ^^^ r[1] ^^^ t.exp r[0]

/-- Cells 2, 3, 4, 6, 8, 16, 17, 19 and 21 do not enter the feedback: overwriting them all with anything leaves it
(R90). -/
def Obligations.UntappedCellsDoNotEnter : Prop :=
  ∀ (t : Tables) (r r' : Regs),
    (∀ j : Fin 23, j ∉ ([2, 3, 4, 6, 8, 16, 17, 19, 21] : List (Fin 23)) → r[j] = r'[j]) →
      feedback t r = feedback t r'

/-- Changing any one of the fourteen cells that enter changes the feedback value, whichever the tables are: the taps enter
unchanged and `PERM` and `EXP` are bijections (R68, R69, R90). -/
def Obligations.EveryEnteringCellMatters : Prop :=
  ∀ (r : Regs) (j : Fin 23) (x : Elem),
    j ∉ ([2, 3, 4, 6, 8, 16, 17, 19, 21] : List (Fin 23)) → x ≠ r[j] →
      feedback Config.tables (r.set j x) ≠ feedback Config.tables r

/-- A round moves every cell one place down and appends the feedback value computed before the shift, which it also
returns (R92, R93). -/
def Obligations.RoundShiftsDownAndAppends : Prop :=
  ∀ (t : Tables) (r : Regs),
    (∀ (j : Nat) (h : j < 22), (stepRegs t r).1[j] = r[j + 1]) ∧
    (stepRegs t r).1[22] = feedback t r ∧ (stepRegs t r).2 = feedback t r

/-- A round can be undone when `EXP` is a bijection (R92, corner cases). -/
def Obligations.RoundIsInvertible : Prop :=
  ∀ t : Tables, Function.Bijective t.exp → Function.Bijective fun r => (stepRegs t r).1

/-- After k rounds the cell loaded at j sits at j - k or is gone, and the feedback values fill the top, the latest at 22
(R94, which the spec derives from R92). -/
def Obligations.CellsTravelDownTheRegister : Prop :=
  ∀ (t : Tables) (r : Regs) (k j : Nat) (h : j < 23),
    (roundsFrom t r k)[j] =
      if h' : j + k < 23 then r[j + k] else feedback t (roundsFrom t r (j + k - 23))

/-- The all-zero register feeds back `PERM[0]`, since `EXP[0] = 0` (R90, R69). -/
def Obligations.ZeroRegisterFeedsPermOfZero : Prop :=
  feedback Config.tables (Vector.replicate 23 0#7) = Config.tables.perm 0#7

/-! ### The micro-operations in BUSY -/

/-- INITR where it is taken completes: one round, SEQ up by one, and nothing else (R84). -/
def Obligations.InitrIsOneSilentRound : Prop :=
  ∀ s : State, s.inputs.rst = false → s.ph = .busy → s.seq.toNat < 46 →
    exec .initr s =
      .next { s with r := (stepRegs Config.tables s.r).1, seq := s.seq + 1#8 }

/-- GENR where it is taken completes: with i = SEQ - 46, one round, its feedback value filtered and ORed into keystream bit
i, SEQ up by one; every other keystream bit and byte, PH and the ports stay (R100, R33). -/
def Obligations.GenrPacksOneFilteredBit : Prop :=
  ∀ s : State, s.inputs.rst = false → s.ph = .busy → 46 ≤ s.seq.toNat → s.seq.toNat < 142 →
    ∃ t, exec .genr s = .next t ∧
      t.r = (stepRegs Config.tables s.r).1 ∧
      t.seq.toNat = s.seq.toNat + 1 ∧ t.ph = s.ph ∧ t.host = s.host ∧
      (∀ n < 96, ksBit t.ks n =
        if n = s.seq.toNat - 46 then
          ksBit s.ks n || Config.tables.filt (stepRegs Config.tables s.r).2 == 1#1
        else ksBit s.ks n) ∧
      (∀ (b : Nat) (h : b < 12), b ≠ (s.seq.toNat - 46) / 8 → t.ks[b] = s.ks[b])

/-- FIN where it is taken completes: R is zeroed, PH becomes DONE, KS and SEQ stay, `busy` falls and `done` rises (R104,
the spec's decision D12). -/
def Obligations.FinZeroesTheRegisterAndEnds : Prop :=
  ∀ s : State, s.inputs.rst = false → s.ph = .busy → s.seq.toNat = 142 →
    ∃ t, exec .fin s = .next t ∧ t.r = Vector.replicate 23 0#7 ∧ t.ph = .done ∧
      t.ks = s.ks ∧ t.seq = s.seq ∧ t.host = s.host ∧ t.busy = false ∧ t.done = true

/-- A micro-operation completes exactly in the states in which the sequencer selects it (R55). That it has no meaning
elsewhere is the model's choice (log entry 5). -/
def Obligations.MicroOpsCompleteExactlyWhenSelected : Prop :=
  ∀ s : State,
    ((∃ t, exec .load s = .next t) ↔ s.transition = .load) ∧
    ((∃ t, exec .initr s = .next t) ↔ s.transition = .initr) ∧
    ((∃ t, exec .genr s = .next t) ↔ s.transition = .genr) ∧
    ((∃ t, exec .fin s = .next t) ↔ s.transition = .fin)

/-! ### Host commands -/

/-- START in IDLE or DONE completes: the core takes LOAD with these operands (R115, the spec's decision D10). SEQ is in its
range (R15): beyond it the state is stuck (StuckStatesStopByName). -/
def Obligations.StartLoadsWhenNotBusy : Prop :=
  ∀ (s : State) (key : Key) (iv : Iv), s.inputs.rst = false → (s.ph = .idle ∨ s.ph = .done) →
    s.seq.toNat ≤ 142 →
    ∃ t, exec (.start key iv) s = .next t ∧ t.r = loadV key iv ∧
      t.ks = Vector.replicate 12 0#8 ∧ t.seq = 0#8 ∧ t.ph = .busy ∧ t.host = s.host ∧
      t.busy = true ∧ t.done = false

/-- START in BUSY is ignored: it does exactly what the selected micro-operation does, whatever its operands (R116, the
spec's decision D10). -/
def Obligations.StartIsIgnoredWhileBusy : Prop :=
  ∀ (s : State) (key : Key) (iv : Iv), s.inputs.rst = false → s.ph = .busy →
    (s.seq.toNat < 46 → exec (.start key iv) s = exec .initr s) ∧
    (46 ≤ s.seq.toNat → s.seq.toNat < 142 → exec (.start key iv) s = exec .genr s) ∧
    (s.seq.toNat = 142 → exec (.start key iv) s = exec .fin s)

/-- `rst` beats START: with `rst` raised, START does what RESET does, in every phase (R137, R151). The passing of the host's
schedule in the step is the model's choice (log entry 4, DESIGN CHOICE). -/
def Obligations.ResetBeatsStart : Prop :=
  ∀ (s : State) (key : Key) (iv : Iv), s.inputs.rst = true →
    exec (.start key iv) s = exec .reset s ∧ step s = passTransition (exec .reset s)

/-- A step taken with `start` raised is START with the operands on the ports, in every phase and with `rst` at either
level (R115, R116, R137). The passing of the host's schedule is the model's choice (log entry 4, DESIGN CHOICE). -/
def Obligations.RaisedStartStepsAsStart : Prop :=
  ∀ s : State, s.inputs.start = true →
    step s = passTransition (exec (.start s.inputs.key s.inputs.iv) s)

/-- RESET completes in every state, the stuck ones included, with the values of R25; it is idempotent; and the core then
holds until `start`: under any ports that raise neither `rst` nor `start` a step leaves all of it as it is (R150, the
spec's decision D14). -/
def Obligations.ResetZeroesEverything : Prop :=
  ∀ s : State, ∃ t, exec .reset s = .next t ∧ t.r = Vector.replicate 23 0#7 ∧
    t.ks = Vector.replicate 12 0#8 ∧ t.seq = 0#8 ∧ t.ph = .idle ∧ t.host = s.host ∧
    t.busy = false ∧ t.done = false ∧ exec .reset t = .next t ∧
    ∀ (p : Inputs) (later : List Inputs), p.rst = false → p.start = false →
      ∃ u, step { t with host := p :: later } = .next u ∧ u.sameCore t

/-- The state after reset (R25, the spec's decision D14). That no host input is scheduled in it is the model's choice
(log entry 4). -/
def Obligations.StateAfterReset : Prop :=
  State.reset.r = Vector.replicate 23 0#7 ∧ State.reset.ks = Vector.replicate 12 0#8 ∧
  State.reset.seq = 0#8 ∧ State.reset.ph = .idle ∧ State.reset.busy = false ∧
  State.reset.done = false ∧ State.reset.host = []

/-! ### The step -/

/-- The step is the first row of R119 that applies, and around the meaning the host's schedule moves on by one transition
(the rows are R119's, the spec's decision D8; SEQ beyond its range is StuckStatesStopByName). The moving of the schedule,
which every clause states, is the model's choice (log entry 4, DESIGN CHOICE). -/
def Obligations.StepRunsTheSelectedRow : Prop :=
  ∀ s : State,
    (s.inputs.rst = true → step s = passTransition (exec .reset s)) ∧
    (s.inputs.rst = false → (s.ph = .idle ∨ s.ph = .done) → s.seq.toNat ≤ 142 →
      (s.inputs.start = true → step s = passTransition (exec .load s)) ∧
      (s.inputs.start = false → step s = .next s.passed)) ∧
    (s.inputs.rst = false → s.ph = .busy →
      (s.seq.toNat < 46 → step s = passTransition (exec .initr s)) ∧
      (46 ≤ s.seq.toNat → s.seq.toNat < 142 → step s = passTransition (exec .genr s)) ∧
      (s.seq.toNat = 142 → step s = passTransition (exec .fin s)))

/-- An instruction placed where the next step takes it is what the next step runs and it completes, in every state and
for all six instructions; a word of the opcode table is placed as the instruction it decodes to (log entries 3 and 6). -/
def Obligations.PlacedInstructionIsRun : Prop :=
  (∀ (s : State) (i : Instr), ∃ t, exec i (s.placed i) = .next t ∧ step (s.placed i) = .next t.passed) ∧
  (∀ (s : State) (nbits w : Nat) (i : Instr), decodeTableWord nbits w = some i →
    step (s.withFetchWord nbits w) = passTransition (exec i (s.withFetchWord nbits w)))

/-- The machine never stops in a state of legal shape: every such state has a next state, whatever the ports carry
(R119: "the core never blocks ... and has no stuck state"; the spec's decision D8). -/
def Obligations.LegalStatesNeverStop : Prop :=
  ∀ s : State, s.Inv → ∃ t, step s = .next t

/-- The two kinds of stuck state stop by name while `rst = 0`, for a step and for START alike, and a reset leaves them:
PH = 0b11 with any SEQ, and SEQ in 143..255 in IDLE, BUSY and DONE (spec/93_implementation_defined.md U3, U4). That these values are kept at all is the model's choice (log entry 8, DESIGN
CHOICE). -/
def Obligations.StuckStatesStopByName : Prop :=
  ∀ (s : State) (key : Key) (iv : Iv),
    (s.inputs.rst = false → s.ph = .reserved →
      step s = .fault .stuckPhase ∧ exec (.start key iv) s = .fault .stuckPhase) ∧
    (s.inputs.rst = false → s.ph ≠ .reserved → 143 ≤ s.seq.toNat →
      step s = .fault .stuckSequence ∧ exec (.start key iv) s = .fault .stuckSequence) ∧
    (s.inputs.rst = true → ∃ t, step s = .next t ∧ t.ph = .idle ∧ t.seq = 0#8)

/-- Every step keeps the shape of a reachable state (R15, R16, R24, R25, R33). -/
def Obligations.EveryStepKeepsTheShape : Prop :=
  ∀ s t : State, s.Inv → step s = .next t → t.Inv

/-- The state after reset has that shape. -/
def Obligations.ResetHasTheShape : Prop := State.reset.Inv

/-- Every step keeps this: a run in progress is the run of one key and IV, round by round and bit by bit, and what DONE
holds is the whole keystream of one key and IV (R85, R105, R106, R117). -/
def Obligations.EveryStepKeepsTheRunGenuine : Prop :=
  ∀ s t : State, s.Genuine → step s = .next t → t.Genuine

/-- It holds after reset. -/
def Obligations.ResetIsGenuine : Prop := State.reset.Genuine

/-- PH's codes, and its writers: a step changes PH only by LOAD to BUSY, FIN to DONE or RESET to IDLE (R16, the spec's
decision D7). -/
def Obligations.PhaseHasThreeWriters : Prop :=
  (Phase.code .idle = 0b00#2 ∧ Phase.code .busy = 0b01#2 ∧ Phase.code .done = 0b10#2 ∧
    Phase.code .reserved = 0b11#2) ∧
  ∀ s t : State, step s = .next t → t.ph ≠ s.ph →
    (s.transition = .load ∧ t.ph = .busy) ∨ (s.transition = .fin ∧ t.ph = .done) ∨
      (s.transition = .reset ∧ t.ph = .idle)

/-- How each transition moves SEQ, and that it never passes 142 in a state of legal shape (R15, the spec's decision D7). -/
def Obligations.SeqCountsRounds : Prop :=
  ∀ s t : State, s.Inv → step s = .next t →
    (s.transition = .load → t.seq.toNat = 0) ∧
    (s.transition = .initr → t.seq.toNat = s.seq.toNat + 1) ∧
    (s.transition = .genr → t.seq.toNat = s.seq.toNat + 1) ∧
    (s.transition = .fin → t.seq = s.seq ∧ t.seq.toNat = 142) ∧
    (s.transition = .reset → t.seq.toNat = 0) ∧
    (s.transition = .hold → t.seq = s.seq) ∧
    t.seq.toNat ≤ 142

/-- FIN is the only way to reach DONE, and the keystream is complete before `done` rises (R104, corner cases). -/
def Obligations.OnlyFinRaisesDone : Prop :=
  ∀ s t : State, step s = .next t → s.done = false → t.done = true →
    s.transition = .fin ∧ s.ph = .busy ∧ s.seq.toNat = 142 ∧ t.ks = s.ks

/-- A keystream bit that is 1 is cleared only by LOAD or RESET (R33: `KSBitSet` never clears a bit; R14). -/
def Obligations.KeystreamBitsAreNeverCleared : Prop :=
  ∀ (s t : State) (i : Nat), i < 96 → step s = .next t → ksBit s.ks i = true →
    ksBit t.ks i = false → s.transition = .load ∨ s.transition = .reset

/-- Nothing in the core branches on data: what PH and SEQ become depends on PH, SEQ and the pins `rst` and `start`, not on
R, KS, `key` or `iv` (R17, R55, R96). -/
def Obligations.ControlDoesNotDependOnData : Prop :=
  ∀ a b ta : State, a.ph = b.ph → a.seq = b.seq → a.inputs.rst = b.inputs.rst →
    a.inputs.start = b.inputs.start → step a = .next ta →
      ∃ tb, step b = .next tb ∧ ta.ph = tb.ph ∧ ta.seq = tb.seq

/-- Everything survives a hold of any length (R144; R119 row 3), SEQ being in its range (R15). The schedule of the ports is
the model's (log entry 4). -/
def Obligations.StateSurvivesAnyHold : Prop :=
  ∀ (n : Nat) (s : State), (s.ph = .idle ∨ s.ph = .done) → s.seq.toNat ≤ 142 →
    (∀ p ∈ s.host.take n, p.rst = false ∧ p.start = false) →
      ∃ t, stepMany n s = .next t ∧ t.sameCore s ∧ t.outputs = s.outputs

/-! ### Outputs and the keystream buffer -/

/-- `busy` and `done` are PH's, and never both 1 (R17, the spec's decision D9). -/
def Obligations.FlagsFollowThePhase : Prop :=
  ∀ s : State, (s.busy = true ↔ s.ph = .busy) ∧ (s.done = true ↔ s.ph = .done) ∧
    (s.busy && s.done) = false

/-- `ks` shows KS while `done = 1` and no value otherwise (R117, the spec's decision D13). -/
def Obligations.KsPortOnlyWhileDone : Prop :=
  ∀ s : State, (s.done = true → s.outputs.ks = some s.ks) ∧ (s.done = false → s.outputs.ks = none)

/-- Keystream bit i lives in byte i div 8 at position 7 - (i mod 8), and `KSBitSet` ORs into that bit alone (R33). -/
def Obligations.KeystreamBitOrder : Prop :=
  ∀ (ks : Keystream) (i : Nat) (h : i < 96) (z : Bit),
    ksBit ks i = ks[i / 8].getLsbD (7 - i % 8) ∧
    (ksBitSet ks i z)[i / 8] = ks[i / 8] ||| (z.setWidth 8 <<< (7 - i % 8)) ∧
    ∀ n < 96, ksBit (ksBitSet ks i z) n = (ksBit ks n || (decide (n = i) && z == 1#1))

/-! ### Whole runs -/

/-- The headline (R106): if `start` is raised with a key and an IV while the core is not busy, SEQ is in its range (R15) and no
reset comes, then after the 144 transitions of a run `done` is 1, KS is `run(key, iv)`, R is zero and SEQ is 142, whatever `start`, `key` and
`iv` do meanwhile. R zero, SEQ 142 and the freedom of the ports are R120, which the spec derives; no reset is the premise R151
asks for; that the schedule is then 144 entries further on is the model's choice (log entry 4, DESIGN CHOICE). -/
def Obligations.RunDeliversItsKeystream : Prop :=
  ∀ s : State, (s.ph = .idle ∨ s.ph = .done) → s.seq.toNat ≤ 142 → s.inputs.start = true →
    s.NoResetFor 144 →
    ∃ t, stepMany 144 s = .next t ∧
      t.outputs = ⟨false, true, some (runKs Config.tables s.inputs.key s.inputs.iv)⟩ ∧
      t.r = Vector.replicate 23 0#7 ∧ t.seq.toNat = 142 ∧ t.host = s.host.drop 144

/-- Until then the run is in progress: after 1 to 143 transitions `busy` is 1, `done` is 0 and SEQ counts the rounds
(R118, R120, R125). The schedule of the ports is the model's (log entry 4). -/
def Obligations.DoneStaysLowDuringARun : Prop :=
  ∀ (s : State) (n : Nat), (s.ph = .idle ∨ s.ph = .done) → s.seq.toNat ≤ 142 → s.inputs.start = true →
    s.NoResetFor 143 → 1 ≤ n → n ≤ 143 →
      ∃ t, stepMany n s = .next t ∧ t.outputs = ⟨true, false, none⟩ ∧ t.seq.toNat = n - 1

/-- A full run lists as LOAD, 46 INITR, 96 GENR, FIN (R61). The schedule of the ports is the model's (log entry 4). -/
def Obligations.FullRunListsAsItsExpansion : Prop :=
  ∀ s : State, (s.ph = .idle ∨ s.ph = .done) → s.seq.toNat ≤ 142 → s.inputs.start = true →
    s.NoResetFor 144 →
    (traceOf 144 s).map Transition.instr = (expandPseudo .fullRun).map some

/-- What the host does with `start`, `key` and `iv` during a run changes nothing: two busy cores in the same state, under
any two schedules without a reset, stay in the same state to the end of the run (R116, R123). The schedules are the model's
(log entry 4). -/
def Obligations.PortsCannotDisturbARun : Prop :=
  ∀ (n : Nat) (a b : State), a.sameCore b → a.ph = .busy → a.seq.toNat + n ≤ 143 →
    a.NoResetFor n → b.NoResetFor n →
      ∃ ta tb, stepMany n a = .next ta ∧ stepMany n b = .next tb ∧ ta.sameCore tb

/-- The 96 keystream bits are `FILT[fb_(46+i)]`, none skipped, where fb_n is the feedback value of the (n+1)-th round
after LOAD (R101). -/
def Obligations.KeystreamBitIsFilteredFeedback : Prop :=
  ∀ (t : Tables) (key : Key) (iv : Iv) (i : Nat), i < 96 →
    ksBit (runKs t key iv) i =
      (t.filt (feedback t (roundsFrom t (loadV key iv) (46 + i))) == 1#1)

/-- `run` depends on the IV only through its 25 effective bits (R86 b, which the spec derives; R52). -/
def Obligations.RunIgnoresMaskedIvBits : Prop :=
  ∀ (t : Tables) (key : Key) (iv iv' : Iv), ivEffective iv = ivEffective iv' →
    runKs t key iv = runKs t key iv'

/-! ### The byte-level wrapper -/

/-- `run_bytes` checks key length, IV length, output length and key range in this order, reports the first failure, and
otherwise answers `run` of the key elements and IV bytes, taken unchanged (R121, R134, R137; the spec's decision D17). -/
def Obligations.RunBytesChecksInOrder : Prop :=
  ∀ (t : Tables) (kb ib : List Byte) (n : Nat),
    (kb.length ≠ 18 → runBytes t kb ib n = .invalidInputLength .key) ∧
    (kb.length = 18 → ib.length ≠ 4 → runBytes t kb ib n = .invalidInputLength .iv) ∧
    (kb.length = 18 → ib.length = 4 → n ≠ 12 → runBytes t kb ib n = .invalidInputLength .out) ∧
    (kb.length = 18 → ib.length = 4 → n = 12 → (∃ b ∈ kb, 128 ≤ b.toNat) →
      runBytes t kb ib n = .refused .keyElementOutOfRange) ∧
    (kb.length = 18 → ib.length = 4 → n = 12 → (∀ b ∈ kb, b.toNat < 128) →
      ∃ (key : Key) (iv : Iv), key.toList.map (fun a => a.setWidth 8) = kb ∧ iv.toList = ib ∧
        runBytes t kb ib n = .ok (runKs t key iv))

/-- A call that fails leaves the output buffer and the core as they were: by a length error (R132, R121), by a key byte of 128
or more (R134), or because the core is not ready. The last, coreNotReady, is the model's choice (log entry 7, DESIGN
CHOICE). -/
def Obligations.FailedCallTouchesNothing : Prop :=
  ∀ (kb ib : List Byte) (c : Caller),
    (∀ ks, (callRunBytes kb ib c).1 ≠ .ok ks) → (callRunBytes kb ib c).2 = c

/-- A well-formed call on a core that is not busy, SEQ being in its range (R15), succeeds: the buffer holds exactly the 12 bytes of `run`, and the core
has run to DONE (R106, R121, R123). The core's part is the model's reading of "return run(key, iv)" (log entry 7). -/
def Obligations.AcceptedCallDeliversTheKeystream : Prop :=
  ∀ (key : Key) (iv : Iv) (c : Caller), c.out.length = 12 → (c.core.ph = .idle ∨ c.core.ph = .done) →
    c.core.seq.toNat ≤ 142 →
    ∃ core', callRunBytes (key.toList.map fun a => a.setWidth 8) iv.toList c =
        (.ok (runKs Config.tables key iv), ⟨core', (runKs Config.tables key iv).toList⟩) ∧
      core'.ph = .done ∧ core'.ks = runKs Config.tables key iv ∧
      core'.r = Vector.replicate 23 0#7 ∧ core'.host = c.core.host

/-- The result codes of R133: 0 OK, 1 `InvalidInputLength`; operand 0 key, 1 iv, 2 out. -/
def Obligations.ResultCodes : Prop :=
  (∀ ks, (WrapperResult.ok ks).code = some 0) ∧
  (∀ what, (WrapperResult.invalidInputLength what).code = some 1) ∧
  LengthOperand.code .key = 0 ∧ LengthOperand.code .iv = 1 ∧ LengthOperand.code .out = 2
end

