-- ==== Sys2Proof/Laws/State.lean ====
section
/-! SUPPORT. One lemma for each field of State under each effect: later proofs read these and unfold no record update. -/

namespace Sys2Proof.Machine

section Reset
@[simp] theorem State.reset_r : State.reset.r = zeroRegs := rfl
@[simp] theorem State.reset_ks : State.reset.ks = zeroKs := rfl
@[simp] theorem State.reset_seq : State.reset.seq = 0#8 := rfl
@[simp] theorem State.reset_ph : State.reset.ph = .idle := rfl
@[simp] theorem State.reset_host : State.reset.host = [] := rfl
end Reset

section Cleared
variable (s : State)
@[simp] theorem State.cleared_r : s.cleared.r = zeroRegs := rfl
@[simp] theorem State.cleared_ks : s.cleared.ks = zeroKs := rfl
@[simp] theorem State.cleared_seq : s.cleared.seq = 0#8 := rfl
@[simp] theorem State.cleared_ph : s.cleared.ph = .idle := rfl
@[simp] theorem State.cleared_host : s.cleared.host = s.host := rfl
end Cleared

section Loaded
variable (key : Key) (iv : Iv) (s : State)
@[simp] theorem State.loaded_r : (s.loaded key iv).r = loadV key iv := rfl
@[simp] theorem State.loaded_ks : (s.loaded key iv).ks = zeroKs := rfl
@[simp] theorem State.loaded_seq : (s.loaded key iv).seq = 0#8 := rfl
@[simp] theorem State.loaded_ph : (s.loaded key iv).ph = .busy := rfl
@[simp] theorem State.loaded_host : (s.loaded key iv).host = s.host := rfl
end Loaded

section SilentRound
variable (t : Tables) (s : State)
@[simp] theorem State.silentRound_r : (s.silentRound t).r = (stepRegs t s.r).1 := rfl
@[simp] theorem State.silentRound_ks : (s.silentRound t).ks = s.ks := rfl
@[simp] theorem State.silentRound_seq : (s.silentRound t).seq = s.seq + 1#8 := rfl
@[simp] theorem State.silentRound_ph : (s.silentRound t).ph = s.ph := rfl
@[simp] theorem State.silentRound_host : (s.silentRound t).host = s.host := rfl
end SilentRound

section FilteredRound
variable (t : Tables) (s : State)
@[simp] theorem State.filteredRound_r : (s.filteredRound t).r = (stepRegs t s.r).1 := rfl
@[simp] theorem State.filteredRound_ks :
    (s.filteredRound t).ks = ksBitSet s.ks s.bitIndex (t.filt (stepRegs t s.r).2) := rfl
@[simp] theorem State.filteredRound_seq : (s.filteredRound t).seq = s.seq + 1#8 := rfl
@[simp] theorem State.filteredRound_ph : (s.filteredRound t).ph = s.ph := rfl
@[simp] theorem State.filteredRound_host : (s.filteredRound t).host = s.host := rfl
end FilteredRound

section Finished
variable (s : State)
@[simp] theorem State.finished_r : s.finished.r = zeroRegs := rfl
@[simp] theorem State.finished_ks : s.finished.ks = s.ks := rfl
@[simp] theorem State.finished_seq : s.finished.seq = s.seq := rfl
@[simp] theorem State.finished_ph : s.finished.ph = .done := rfl
@[simp] theorem State.finished_host : s.finished.host = s.host := rfl
end Finished

section Passed
variable (s : State)
@[simp] theorem State.passed_r : s.passed.r = s.r := rfl
@[simp] theorem State.passed_ks : s.passed.ks = s.ks := rfl
@[simp] theorem State.passed_seq : s.passed.seq = s.seq := rfl
@[simp] theorem State.passed_ph : s.passed.ph = s.ph := rfl
@[simp] theorem State.passed_host : s.passed.host = s.host.tail := rfl
end Passed

section OnPorts
variable (f : Inputs → Inputs) (s : State)
@[simp] theorem State.onPorts_r : (s.onPorts f).r = s.r := rfl
@[simp] theorem State.onPorts_ks : (s.onPorts f).ks = s.ks := rfl
@[simp] theorem State.onPorts_seq : (s.onPorts f).seq = s.seq := rfl
@[simp] theorem State.onPorts_ph : (s.onPorts f).ph = s.ph := rfl
@[simp] theorem State.onPorts_inputs : (s.onPorts f).inputs = f s.inputs := rfl
end OnPorts

section Ports
variable (s : State) (p : Inputs) (rest : List Inputs)
@[simp] theorem State.inputs_nil : ({ s with host := [] } : State).inputs = Inputs.quiet := rfl
@[simp] theorem State.inputs_cons : ({ s with host := p :: rest } : State).inputs = p := rfl
@[simp] theorem Inputs.quiet_rst : Inputs.quiet.rst = false := rfl
@[simp] theorem Inputs.quiet_start : Inputs.quiet.start = false := rfl
end Ports

end Sys2Proof.Machine
end

