-- ==== Sys2Proof/Laws/Exec.lean ====
section
/-! SUPPORT. What each instruction and a step can do, said once: later proofs cite these and unfold neither exec nor
step. -/

namespace Sys2Proof.Machine

theorem exec_load_of_selected {s : State} (h : s.selectsLoad) :
    exec .load s = .next (s.loaded s.inputs.key s.inputs.iv) := if_pos h

theorem exec_initr_of_selected {s : State} (h : s.selectsInitr) :
    exec .initr s = .next (s.silentRound Config.tables) := if_pos h

theorem exec_genr_of_selected {s : State} (h : s.selectsGenr) :
    exec .genr s = .next (s.filteredRound Config.tables) := if_pos h

theorem exec_fin_of_selected {s : State} (h : s.selectsFin) :
    exec .fin s = .next s.finished := if_pos h

theorem exec_start_of_rest {key : Key} {iv : Iv} {s : State} (hr : s.inputs.rst = false)
    (hp : s.ph = .idle ∨ s.ph = .done) (hq : s.seq.toNat ≤ seqEnd) :
    exec (.start key iv) s = .next (s.loaded key iv) := by
  obtain hp | hp := hp <;>
    simp [exec, execStart, selectTransition, restTransition, hr, hp, Nat.not_lt.mpr hq]

@[simp] theorem exec_reset (s : State) : exec .reset s = .next s.cleared := rfl

theorem exec_load_next {s t : State} (h : exec .load s = .next t) :
    s.selectsLoad ∧ t = s.loaded s.inputs.key s.inputs.iv := by
  simp only [exec, execLoad] at h
  split at h
  · cases h; exact ⟨‹_›, rfl⟩
  · cases h

theorem exec_initr_next {s t : State} (h : exec .initr s = .next t) :
    s.selectsInitr ∧ t = s.silentRound Config.tables := by
  simp only [exec, execInitr] at h
  split at h
  · cases h; exact ⟨‹_›, rfl⟩
  · cases h

theorem exec_genr_next {s t : State} (h : exec .genr s = .next t) :
    s.selectsGenr ∧ t = s.filteredRound Config.tables := by
  simp only [exec, execGenr] at h
  split at h
  · cases h; exact ⟨‹_›, rfl⟩
  · cases h

theorem exec_fin_next {s t : State} (h : exec .fin s = .next t) :
    s.selectsFin ∧ t = s.finished := by
  simp only [exec, execFin] at h
  split at h
  · cases h; exact ⟨‹_›, rfl⟩
  · cases h

/-- What START has done when it answers a next state: the transition selected with `start` raised. -/
theorem exec_start_next {key : Key} {iv : Iv} {s t : State} (h : exec (.start key iv) s = .next t) :
    t = s.cleared ∨ t = s.loaded key iv ∨ t = s ∨ t = s.silentRound Config.tables ∨
      t = s.filteredRound Config.tables ∨ t = s.finished := by
  simp only [exec, execStart] at h
  split at h <;> cases h <;> simp

/-- An instruction answers a next state only by one of five effects, or by none. -/
theorem exec_next {i : Instr} {s t : State} (h : exec i s = .next t) :
    t = s.cleared ∨ (∃ key iv, t = s.loaded key iv) ∨ t = s ∨ t = s.silentRound Config.tables ∨
      t = s.filteredRound Config.tables ∨ t = s.finished := by
  cases i with
  | load => exact .inr (.inl ⟨_, _, (exec_load_next h).2⟩)
  | initr => exact .inr (.inr (.inr (.inl (exec_initr_next h).2)))
  | genr => exact .inr (.inr (.inr (.inr (.inl (exec_genr_next h).2))))
  | fin => exact .inr (.inr (.inr (.inr (.inr (exec_fin_next h).2))))
  | reset => cases h; exact .inl rfl
  | start key iv =>
    rcases exec_start_next h with h | h | h | h | h | h
    · exact .inl h
    · exact .inr (.inl ⟨key, iv, h⟩)
    · exact .inr (.inr (.inl h))
    · exact .inr (.inr (.inr (.inl h)))
    · exact .inr (.inr (.inr (.inr (.inl h))))
    · exact .inr (.inr (.inr (.inr (.inr h))))

/-- No instruction touches the host's schedule. -/
theorem exec_host {i : Instr} {s t : State} (h : exec i s = .next t) : t.host = s.host := by
  rcases exec_next h with rfl | ⟨_, _, rfl⟩ | rfl | rfl | rfl | rfl <;> rfl

/-- The conditions under which each transition is selected, the rows of R119. -/
theorem transition_cases (s : State) :
    (s.inputs.rst = true ∧ s.transition = .reset) ∨
    (s.selectsLoad ∧ s.transition = .load) ∨
    (s.selectsHold ∧ s.transition = .hold) ∨
    (s.selectsInitr ∧ s.transition = .initr) ∨
    (s.selectsGenr ∧ s.transition = .genr) ∨
    (s.selectsFin ∧ s.transition = .fin) ∨
    ((s.inputs.rst = false ∧ s.ph = .reserved) ∧ s.transition = .stuckPhase) ∨
    ((s.inputs.rst = false ∧ s.ph ≠ .reserved ∧ seqEnd < s.seq.toNat) ∧
      s.transition = .stuckSequence) := by
  simp only [State.transition, selectTransition, restTransition, State.selectsLoad, State.selectsHold,
    State.selectsInitr, State.selectsGenr, State.selectsFin]
  cases s.inputs.rst with
  | true => simp
  | false =>
    cases s.ph with
    | reserved => simp
    | idle => rcases Nat.lt_or_ge seqEnd s.seq.toNat with h | h <;> cases s.inputs.start <;>
        simp [h, Nat.not_lt.mpr, Nat.not_le.mpr]
    | done => rcases Nat.lt_or_ge seqEnd s.seq.toNat with h | h <;> cases s.inputs.start <;>
        simp [h, Nat.not_lt.mpr, Nat.not_le.mpr]
    | busy =>
      rcases Nat.lt_or_ge s.seq.toNat nInit with h | h
      · simp [h]
      · rcases Nat.lt_trichotomy s.seq.toNat seqEnd with h' | h' | h'
        · simp [h, h', Nat.not_lt.mpr h]
        · simp [h', (by decide : ¬ seqEnd < nInit)]
        · simp [h', Nat.not_lt.mpr h, Nat.not_lt.mpr h'.le, h'.ne']

theorem step_of_rst {s : State} (h : s.inputs.rst = true) : step s = .next s.cleared.passed := by
  simp [step, State.transition, selectTransition, h, passTransition]

theorem step_of_load {s : State} (h : s.selectsLoad) :
    step s = .next (s.loaded s.inputs.key s.inputs.iv).passed := by
  have ht : s.transition = .load := by
    obtain ⟨hr, hp | hp, hq, hs⟩ := h <;>
      simp [State.transition, selectTransition, restTransition, hr, hp, hs, Nat.not_lt.mpr hq]
  simp [step, ht, exec_load_of_selected h, passTransition]

theorem step_of_hold {s : State} (h : s.selectsHold) : step s = .next s.passed := by
  obtain ⟨hr, hp | hp, hq, hs⟩ := h <;>
    simp [step, State.transition, selectTransition, restTransition, hr, hp, hs, Nat.not_lt.mpr hq,
      passTransition]

theorem step_of_initr {s : State} (h : s.selectsInitr) :
    step s = .next (s.silentRound Config.tables).passed := by
  have ht : s.transition = .initr := by
    simp [State.transition, selectTransition, h.1, h.2.1, h.2.2]
  simp [step, ht, exec_initr_of_selected h, passTransition]

theorem step_of_genr {s : State} (h : s.selectsGenr) :
    step s = .next (s.filteredRound Config.tables).passed := by
  have ht : s.transition = .genr := by
    simp [State.transition, selectTransition, h.1, h.2.1, h.2.2.2, Nat.not_lt.mpr h.2.2.1]
  simp [step, ht, exec_genr_of_selected h, passTransition]

theorem step_of_fin {s : State} (h : s.selectsFin) : step s = .next s.finished.passed := by
  have ht : s.transition = .fin := by
    simp [State.transition, selectTransition, h.1, h.2.1, h.2.2, (by decide : ¬ seqEnd < nInit)]
  simp [step, ht, exec_fin_of_selected h, passTransition]

/-- What a step that answers a next state has done. -/
theorem step_next {s t : State} (h : step s = .next t) :
    (s.inputs.rst = true ∧ t = s.cleared.passed) ∨
    (s.selectsLoad ∧ t = (s.loaded s.inputs.key s.inputs.iv).passed) ∨
    (s.selectsHold ∧ t = s.passed) ∨
    (s.selectsInitr ∧ t = (s.silentRound Config.tables).passed) ∨
    (s.selectsGenr ∧ t = (s.filteredRound Config.tables).passed) ∨
    (s.selectsFin ∧ t = s.finished.passed) := by
  rcases transition_cases s with ⟨hs, -⟩ | ⟨hs, -⟩ | ⟨hs, -⟩ | ⟨hs, -⟩ | ⟨hs, -⟩ | ⟨hs, -⟩ | ⟨-, ht⟩ |
      ⟨-, ht⟩
  · rw [step_of_rst hs] at h; exact .inl ⟨hs, (Host.Outcome.next.inj h).symm⟩
  · rw [step_of_load hs] at h; exact .inr (.inl ⟨hs, (Host.Outcome.next.inj h).symm⟩)
  · rw [step_of_hold hs] at h; exact .inr (.inr (.inl ⟨hs, (Host.Outcome.next.inj h).symm⟩))
  · rw [step_of_initr hs] at h
    exact .inr (.inr (.inr (.inl ⟨hs, (Host.Outcome.next.inj h).symm⟩)))
  · rw [step_of_genr hs] at h
    exact .inr (.inr (.inr (.inr (.inl ⟨hs, (Host.Outcome.next.inj h).symm⟩))))
  · rw [step_of_fin hs] at h
    exact .inr (.inr (.inr (.inr (.inr ⟨hs, (Host.Outcome.next.inj h).symm⟩))))
  · simp [step, ht, passTransition] at h
  · simp [step, ht, passTransition] at h

@[simp] theorem stepMany_zero (s : State) : stepMany 0 s = .next s := rfl

theorem stepMany_succ_of_next {s t : State} (n : Nat) (h : step s = .next t) :
    stepMany (n + 1) s = stepMany n t := by
  simp [stepMany, h]

/-- Steps compose. -/
theorem stepMany_add {s t : State} (m n : Nat) (h : stepMany m s = .next t) :
    stepMany (m + n) s = stepMany n t := by
  induction m generalizing s with
  | zero => cases h; simp
  | succ m ih =>
    rw [Nat.add_right_comm]
    simp only [stepMany] at h ⊢
    split at h
    · exact ih h
    · cases h
    · cases h

end Sys2Proof.Machine
end

