-- ==== Sys2Proof/Laws/Ops.lean ====
section
/-! SUPPORT. One lemma for each shared operation over the register state and the keystream buffer, saying what it does
cell by cell or byte by byte. -/

namespace Sys2Proof.Machine

/-- A shift reads from the next cell up, and the newest cell is the value shifted in. -/
theorem getElem_shiftIn (r : Regs) (x : Elem) (j : Nat) (h : j < 23) :
    (shiftIn r x)[j] = if h' : j < 22 then r[j + 1] else x := by
  simp [shiftIn]

@[simp] theorem stepRegs_fst (t : Tables) (r : Regs) :
    (stepRegs t r).1 = shiftIn r (feedback t r) := rfl

@[simp] theorem stepRegs_snd (t : Tables) (r : Regs) : (stepRegs t r).2 = feedback t r := rfl

/-- Where each cell of a loaded register state comes from. -/
theorem getElem_loadV (key : Key) (iv : Iv) (j : Nat) (h : j < 23) :
    (loadV key iv)[j] =
      if h₁ : j < 18 then key[j]
      else if h₂ : j < 22 then ivCell (iv[j - 18]'(by omega))
      else fan iv[0] := by
  simp [loadV]

/-- A keystream write touches one byte. -/
theorem getElem_ksBitSet (ks : Keystream) (i : Nat) (z : Bit) (b : Nat) (h : b < 12) :
    (ksBitSet ks i z)[b] = if b = i / 8 then ks[b] ||| ksMask i z else ks[b] := by
  simp [ksBitSet]

/-- A keystream bit is read from its byte. -/
theorem ksBit_eq_getLsbD (ks : Keystream) (i : Nat) (h : i / 8 < 12) :
    ksBit ks i = ks[i / 8].getLsbD (7 - i % 8) := by
  simp [ksBit, List.getD, h]

@[simp] theorem getElem_zeroKs (b : Nat) (h : b < 12) : zeroKs[b] = 0#8 := by simp [zeroKs]

@[simp] theorem getElem_zeroRegs (j : Nat) (h : j < 23) : zeroRegs[j] = 0#7 := by simp [zeroRegs]

/-- Which bits a keystream mask sets. -/
theorem getLsbD_ksMask (i : Nat) (z : Bit) (k : Nat) :
    (ksMask i z).getLsbD k = (decide (k = 7 - i % 8) && (z == 1#1)) := by
  have hz : z = 0#1 ∨ z = 1#1 := by revert z; decide
  obtain rfl | rfl := hz
  · simp [ksMask]
  · have hm : i % 8 < 8 := Nat.mod_lt _ (by decide)
    simp only [ksMask]
    generalize i % 8 = m at hm
    by_cases hk : k < 8
    · interval_cases m <;> interval_cases k <;> decide
    · rw [BitVec.getLsbD_of_ge _ _ (by omega)]
      symm
      simp
      omega

@[simp] theorem roundsFrom_zero (t : Tables) (r : Regs) : roundsFrom t r 0 = r := rfl

theorem roundsFrom_succ (t : Tables) (r : Regs) (n : Nat) :
    roundsFrom t r (n + 1) = shiftIn (roundsFrom t r n) (feedback t (roundsFrom t r n)) := rfl

/-- Rounds compose. -/
theorem roundsFrom_add (t : Tables) (r : Regs) (m n : Nat) :
    roundsFrom t r (m + n) = roundsFrom t (roundsFrom t r m) n := by
  induction n with
  | zero => rfl
  | succ n ih => rw [← Nat.add_assoc, roundsFrom_succ, roundsFrom_succ, ih]

@[simp] theorem generateLoop_zero (t : Tables) (r : Regs) : generateLoop t r 0 = (r, zeroKs) := rfl

/-- The registers of the generate loop are those of the plain rounds. -/
theorem generateLoop_fst (t : Tables) (r : Regs) (n : Nat) :
    (generateLoop t r n).1 = roundsFrom t r n := by
  induction n with
  | zero => rfl
  | succ n ih => rw [roundsFrom_succ, ← ih]; rfl

/-- One more turn of the generate loop writes one more keystream bit. -/
theorem generateLoop_snd_succ (t : Tables) (r : Regs) (n : Nat) :
    (generateLoop t r (n + 1)).2 =
      ksBitSet (generateLoop t r n).2 n (t.filt (feedback t (roundsFrom t r n))) := by
  rw [← generateLoop_fst]; rfl

end Sys2Proof.Machine
end

