-- ==== Sys2Proof/Laws/PerInstr.lean ====
section
/-! SUPPORT. Statements about every instruction as syntax, one lemma per constructor.
EncodedLength: how many bytes an instruction's code has, one for a micro-operation or a pin and 23 for START. -/

namespace Sys2Proof.Laws.EncodedLength

/-- The bytes a wire carries (R54, R56, R61). -/
def bytesOn : Wire → Nat
  | .uop => 1
  | .start => 1 + 18 + 4
  | .rst => 1

/-- The code of `i` has as many bytes as its wire carries. -/
def Statement (i : Instr) : Prop := (encode i).bytes.length = bytesOn (encode i).wire

theorem load : Statement .load := rfl
theorem initr : Statement .initr := rfl
theorem genr : Statement .genr := rfl
theorem fin : Statement .fin := rfl
theorem start (key : Key) (iv : Iv) : Statement (.start key iv) := by
  simp [Statement, encode, bytesOn, keyBytes, ivBytes]
theorem reset : Statement .reset := rfl

end Sys2Proof.Laws.EncodedLength
end

