-- ==== Sys2Proof/Laws/Schedule.lean ====
section
/-! SUPPORT. The host's schedule over several transitions, and the counting of SEQ. -/

namespace Sys2Proof.Machine

/-- The ports are quiet, or what the schedule has at its head. -/
theorem State.inputs_cases (s : State) :
    s.inputs = Inputs.quiet ∨ ∃ rest, s.host = s.inputs :: rest := by
  cases h : s.host <;> simp [State.inputs, h]

/-- A schedule without a reset has none in its first transition. -/
theorem State.NoResetFor.now {n : Nat} {s : State} (h : s.NoResetFor (n + 1)) :
    s.inputs.rst = false := by
  rcases s.inputs_cases with e | ⟨rest, e⟩
  · rw [e]; rfl
  · exact h _ (by rw [e]; simp)

/-- A schedule without a reset has none once a transition has passed. -/
theorem State.NoResetFor.later {n : Nat} {s t : State} (h : s.NoResetFor (n + 1))
    (ht : t.host = s.host.tail) : t.NoResetFor n := by
  intro p hp
  rw [ht] at hp
  apply h
  cases hs : s.host with
  | nil => simp [hs] at hp
  | cons a rest => simp [hs] at hp ⊢; exact .inr hp

theorem State.NoResetFor.mono {m n : Nat} {s : State} (h : s.NoResetFor n) (hm : m ≤ n) :
    s.NoResetFor m := by
  intro p hp
  refine h p (List.mem_of_mem_take (i := m) ?_)
  rwa [List.take_take, Nat.min_eq_left hm]

/-- A round that SEQ can still count does not wrap it. -/
theorem toNat_seq_succ {q : BitVec 8} (h : q.toNat < seqEnd) : (q + 1#8).toNat = q.toNat + 1 := by
  have h' : q.toNat < 142 := h
  simp
  omega

/-- A zeroed keystream buffer has every bit zero. -/
theorem ksBit_zeroKs (i : Nat) : ksBit zeroKs i = false := by
  by_cases h : i / 8 < 12
  · rw [ksBit_eq_getLsbD _ _ h]; simp
  · simp [ksBit, List.getD, h, zeroKs]

/-- The shape of a state does not depend on the host's schedule. -/
theorem State.Inv.of_sameCore {s t : State} (h : t.sameCore s) (hs : s.Inv) : t.Inv := by
  obtain ⟨h1, h2, h3, h4⟩ := h
  constructor
  · rw [h4]; exact hs.phaseLegal
  · rw [h4, h1, h2, h3]; exact hs.idleZero
  · rw [h4, h3]; exact hs.busySeq
  · rw [h4, h2, h3]; exact hs.busyUnwritten
  · rw [h4, h1, h3]; exact hs.doneEnded

/-- One more line of a trace. -/
theorem traceOf_succ_of_next {s t : State} (n : Nat) (h : step s = .next t) :
    traceOf (n + 1) s = s.transition :: traceOf n t := by
  simp [traceOf, h]

end Sys2Proof.Machine
end

