-- ==== Sys2Proof/Laws/Tables.lean ====
section
/-! SUPPORT. Facts about the list of all field elements that the table check of R74 runs over, and the bijections behind the
machine's tables. -/

namespace Sys2Proof

theorem allElems_nodup : allElems.Nodup := by decide +kernel

theorem mem_allElems (a : Elem) : a ∈ allElems := by revert a; decide +kernel

theorem mem_allElems_tail (a : Elem) : a ∈ allElems.tail ↔ a ≠ 0#7 := by revert a; decide +kernel

/-- Counting over the list of all elements is the size of a finite set. -/
theorem countP_allElems (p : Elem → Bool) :
    allElems.countP p = (Finset.univ.filter fun a : Elem => p a = true).card := by
  rw [List.countP_eq_length_filter, ← List.toFinset_card_of_nodup (allElems_nodup.filter _)]
  congr 1
  ext a
  simp [mem_allElems]

/-- The same over the nonzero elements. -/
theorem countP_allElems_tail (p : Elem → Bool) :
    allElems.tail.countP p = (Finset.univ.filter fun a : Elem => a ≠ 0#7 ∧ p a = true).card := by
  rw [List.countP_eq_length_filter, ← List.toFinset_card_of_nodup (allElems_nodup.tail.filter _)]
  congr 1
  ext a
  simp [mem_allElems_tail]

/-- `PERM` is injective (R68). -/
theorem Config.tables_perm_injective : Function.Injective Config.tables.perm :=
  Config.permFree.injective

@[simp] theorem Config.tables_exp_zero : Config.tables.exp 0#7 = 0#7 := by simp [Config.tables]

/-- `EXP` on a nonzero element. -/
theorem Config.tables_exp_of_ne {a : Elem} (h : a ≠ 0#7) :
    Config.tables.exp a = (Config.expFree ⟨a, h⟩).val := by simp [Config.tables, h]

/-- `EXP` is injective (R69). -/
theorem Config.tables_exp_injective : Function.Injective Config.tables.exp := by
  intro a b h
  by_cases ha : a = 0#7 <;> by_cases hb : b = 0#7
  · rw [ha, hb]
  · rw [ha, Config.tables_exp_zero, Config.tables_exp_of_ne hb] at h
    exact absurd h.symm (Config.expFree ⟨b, hb⟩).prop
  · rw [hb, Config.tables_exp_zero, Config.tables_exp_of_ne ha] at h
    exact absurd h (Config.expFree ⟨a, ha⟩).prop
  · rw [Config.tables_exp_of_ne ha, Config.tables_exp_of_ne hb] at h
    exact congrArg Subtype.val (Config.expFree.injective (Subtype.ext h))

end Sys2Proof
end

