-- ==== Sys2Proof/Laws/Wrapper.lean ====
section
/-! SUPPORT. When the checks of `run_bytes` pass. -/

namespace Sys2Proof.Machine

/-- All four checks pass exactly for buffers of the right lengths whose key bytes are below 128. -/
theorem checkBytes_eq_none (kb ib : List Byte) (n : Nat) :
    checkBytes kb ib n = none ↔
      kb.length = 18 ∧ ib.length = 4 ∧ n = 12 ∧ ∀ b ∈ kb, b.toNat < 128 := by
  unfold checkBytes
  split
  · simp_all [keyLengthOk]
  · split
    · simp_all [ivLengthOk]
    · split
      · simp_all [outLengthOk]
      · split <;> simp_all [keyLengthOk, ivLengthOk, outLengthOk, keyRangeOk]

/-- A failing check never answers `ok`. -/
theorem checkBytes_ne_ok {kb ib : List Byte} {n : Nat} {w : WrapperResult}
    (h : checkBytes kb ib n = some w) (ks : Keystream) : w ≠ .ok ks := by
  unfold checkBytes at h
  split at h
  · cases h; simp
  · split at h
    · cases h; simp
    · split at h
      · cases h; simp
      · split at h
        · cases h; simp
        · cases h

end Sys2Proof.Machine
end

