-- ==== Sys2Proof/Tests/Slice0.lean ====
section
/-! SUPPORT. The model's own tests: the well-formedness checks on ill-formed terms, decoding of written-out words, at most two
small tests for each instruction with results from spec/95_test_vectors.md or the examples of the rules, and a witness for
the hypotheses of each statement. -/

namespace Sys2Proof.Tests

open Sys2Proof.Machine

/-! ### Helpers -/

/-- TI0 of spec/95_test_vectors.md T1: identity tables, the lowest bit as filter. Not the real tables. -/
def ti0 : Tables := ⟨fun a => a, fun a => a, fun a => a.setWidth 1⟩

/-- The key 01 02 .. 12 of the spec's examples. -/
def keyCounting : Key := #v[1, 2, 3, 4, 5, 6, 7, 8, 9, 10, 11, 12, 13, 14, 15, 16, 17, 18]

def ivExample : Iv := #v[0x92#8, 0x34#8, 0x56#8, 0x78#8]

def keyOnes : Key := Vector.replicate 18 0x7F#7

/-- The loaded register of the example of R83. -/
def loadedExample : Regs :=
  #v[0x01, 0x02, 0x03, 0x04, 0x05, 0x06, 0x07, 0x08, 0x09, 0x0A, 0x0B, 0x0C, 0x0D, 0x0E, 0x0F, 0x10,
    0x11, 0x12, 0x12, 0x34, 0x56, 0x78, 0x55]

/-- A core in phase `ph` at `q` with zeroed registers, and ports as scheduled. -/
def coreAt (ph : Phase) (q : BitVec 8) (host : List Inputs) : State :=
  { State.reset with ph := ph, seq := q, host := host }

/-- A busy core with quiet ports. -/
def busyAt (q : BitVec 8) : State := coreAt .busy q []

/-- The ports with `start` raised. -/
def startOnes : Inputs := Inputs.startWith keyOnes (Vector.replicate 4 0#8)

/-- Does the outcome have a next state with this property? -/
def nextHas (o : Host.Outcome State Fault Refusal) (p : State → Bool) : Bool :=
  match o with
  | .next t => p t
  | .fault _ => false
  | .refused _ => false

/-! ### Well-formedness, with an ill-formed term for each check -/

theorem test_ti0_well_formed : ti0.wf = true := by decide +kernel

theorem test_permOk_refuses_constant : ({ ti0 with perm := fun _ => 0 } : Tables).permOk = false := by
  decide +kernel

theorem test_expZeroOk_refuses_shift : ({ ti0 with exp := fun a => a + 1 } : Tables).expZeroOk = false := by
  decide

theorem test_expOk_refuses_collision :
    ({ ti0 with exp := fun a => if a = 2#7 then 1#7 else a } : Tables).expOk = false := by decide +kernel

theorem test_filtOk_refuses_constant : ({ ti0 with filt := fun _ => 1 } : Tables).filtOk = false := by
  decide +kernel

theorem test_keyLengthOk_refuses_17 : keyLengthOk (List.replicate 17 0#8) = false := by decide

theorem test_ivLengthOk_refuses_3 : ivLengthOk (List.replicate 3 0#8) = false := by decide

theorem test_outLengthOk_refuses_13 : outLengthOk 13 = false := by decide

theorem test_keyRangeOk_refuses_0x80 : keyRangeOk [0x7F#8, 0x80#8] = false := by decide

/-! ### Decoding, the words written out from R54, R56 and R60 -/

theorem test_decode_load : decode ⟨.uop, [0b00000000#8]⟩ = .instr .load := by decide
theorem test_decode_initr : decode ⟨.uop, [0b00000001#8]⟩ = .instr .initr := by decide
theorem test_decode_genr : decode ⟨.uop, [0b00000010#8]⟩ = .instr .genr := by decide
theorem test_decode_fin : decode ⟨.uop, [0b00000011#8]⟩ = .instr .fin := by decide
theorem test_decode_reset : decode ⟨.rst, [0b00000001#8]⟩ = .instr .reset := by decide

/-- The START line of P2, `key=01 .. 12 iv=92 34 56 78`. -/
theorem test_decode_start :
    decode ⟨.start, [0b00000001#8,
      0x01#8, 0x02#8, 0x03#8, 0x04#8, 0x05#8, 0x06#8, 0x07#8, 0x08#8, 0x09#8, 0x0A#8, 0x0B#8, 0x0C#8,
      0x0D#8, 0x0E#8, 0x0F#8, 0x10#8, 0x11#8, 0x12#8, 0x92#8, 0x34#8, 0x56#8, 0x78#8]⟩
      = .instr (.start keyCounting ivExample) := by decide

theorem test_decode_rejects_reserved_bits : decode ⟨.uop, [0b00000101#8]⟩ = .rejected .reservedBits := by
  decide
theorem test_decode_rejects_lowered_pin :
    decode ⟨.start, 0#8 :: List.replicate 22 0#8⟩ = .rejected .noCommand := by decide
theorem test_decode_rejects_short_start :
    decode ⟨.start, 1#8 :: List.replicate 21 0#8⟩ = .rejected .wrongLength := by decide
theorem test_decode_rejects_key_byte :
    decode ⟨.start, 1#8 :: 0x80#8 :: List.replicate 21 0#8⟩ = .rejected .keyElementOutOfRange := by decide

theorem test_table_word_uop : decodeTableWord 8 2 = some .genr := by decide
theorem test_table_word_start :
    decodeTableWord 1 1 = some (.start (Vector.replicate 18 0#7) (Vector.replicate 4 0#8)) := by decide
theorem test_table_word_refused : decodeTableWord 8 4 = none := by decide

/-! ### Operations -/

/-- V-L5. -/
theorem test_loadV : loadV keyCounting #v[0x93#8, 0x35#8, 0x57#8, 0x79#8] = loadedExample := by decide

/-- V-S12 under TI0: the fourteen terms XOR to 0x0D. -/
theorem test_feedback : feedback ti0 loadedExample = 0x0D#7 := by decide

/-- V-F8. -/
theorem test_gmul : gmul 0x55#7 0x2A#7 = 0x11#7 := by decide

/-- V-G4: bit 45 is bit 2 of byte 5. -/
theorem test_ksBitSet : ksBitSet zeroKs 45 1#1 = zeroKs.set 5 0x04#8 := by decide

/-! ### Instructions -/

/-- Example of R83. -/
theorem test_load :
    nextHas (exec .load (coreAt .done 142#8 [Inputs.startWith keyCounting ivExample]))
      (fun t => t.r == loadedExample && t.ph == .busy && t.seq == 0#8) = true := by decide

/-- V-H3: `start` during BUSY is not a LOAD. -/
theorem test_load_not_selected :
    (match exec .load (coreAt .busy 0#8 [startOnes]) with
      | .refused .notSelected => true
      | _ => false) = true := by decide

/-- Example of R84, under TI0. -/
theorem test_initr_round :
    (({ busyAt 0#8 with r := loadedExample } : State).silentRound ti0).r
      = shiftIn loadedExample 0x0D#7 := by decide

/-- V-H4. -/
theorem test_initr_seq :
    nextHas (exec .initr (busyAt 45#8)) (fun t => t.seq == 46#8 && t.ks == zeroKs) = true := by decide

/-- Example of R100, under TI0: fb = 0x51, z = 1, `KS[0]` = 0x80, SEQ = 47. -/
theorem test_genr_packs :
    ({ busyAt 46#8 with r := #v[0x03, 0x04, 0x05, 0x06, 0x07, 0x08, 0x09, 0x0A, 0x0B, 0x0C, 0x0D, 0x0E,
      0x0F, 0x10, 0x11, 0x12, 0x12, 0x34, 0x56, 0x78, 0x55, 0x0D, 0x44] }.filteredRound ti0)
      |> (fun t => t.r[22] = 0x51#7 ∧ t.ks = zeroKs.set 0 0x80#8 ∧ t.seq = 47#8) := by decide

/-- V-H6. -/
theorem test_genr_last :
    nextHas (exec .genr (busyAt 141#8)) (fun t => t.seq == 142#8 && t.ph == .busy) = true := by decide

/-- V-H7. -/
theorem test_fin :
    nextHas (exec .fin { busyAt 142#8 with r := loadedExample, ks := Vector.replicate 12 0xDA#8 })
      (fun t => t.r == zeroRegs && t.ph == .done && t.seq == 142#8 &&
        t.ks == Vector.replicate 12 0xDA#8) = true := by decide

/-- Example of R115. -/
theorem test_start :
    nextHas (exec (.start keyOnes (Vector.replicate 4 0#8)) State.reset)
      (fun t => t.r.toList == List.replicate 18 0x7F#7 ++ List.replicate 5 0#7 && t.ph == .busy) = true := by
  decide

/-- V-H3. -/
theorem test_start_ignored :
    nextHas (exec (.start keyOnes (Vector.replicate 4 0#8)) (busyAt 0#8)) (fun t => t.seq == 1#8) = true := by
  decide

/-- V-H10, V-H11. -/
theorem test_reset :
    nextHas (step (coreAt .busy 77#8 [{ startOnes with rst := true }])) (fun t => t == State.reset) = true := by
  decide

/-- U4: SEQ in 143..255 is stuck in IDLE and DONE too, with `start` raised and without. -/
theorem test_stuck_sequence :
    (∀ ph ∈ [Phase.idle, .done], ∀ ports ∈ [[], [startOnes]], ∀ q ∈ [143#8, 255#8],
      (coreAt ph q ports).transition = .stuckSequence) ∧
    (coreAt .done 142#8 [startOnes]).transition = .load := by decide

/-- V-H8: a hold keeps `ks`. -/
theorem test_hold :
    nextHas (step { coreAt .done 142#8 [] with ks := Vector.replicate 12 0xDA#8 })
      (fun t => t.outputs == ⟨false, true, some (Vector.replicate 12 0xDA#8)⟩) = true := by decide

/-- V-E1, V-E5, V-E6, V-E7. -/
theorem test_run_bytes_errors :
    runBytes ti0 (List.replicate 17 0x7F#8) (List.replicate 4 0#8) 12 = .invalidInputLength .key ∧
    runBytes ti0 [] [] 0 = .invalidInputLength .key ∧
    runBytes ti0 (List.replicate 18 0x7F#8) (List.replicate 4 0#8) 13 = .invalidInputLength .out ∧
    runBytes ti0 (List.replicate 17 0x7F#8 ++ [0x80#8]) (List.replicate 4 0#8) 12
      = .refused .keyElementOutOfRange := by decide

/-! ### Witnesses: for each statement with hypotheses, inputs that meet all of them -/

theorem witness_AcceptedBytesAreTheCode : decode ⟨.rst, [1#8]⟩ = .instr .reset := by decide

theorem witness_KeyByteWithTopBitIsNoCode :
    ∃ kb kb' ib : List Byte, kb.length = 18 ∧ kb'.length = 18 ∧ ib.length = 4 ∧
      (∃ b ∈ kb, b.getLsbD 7 = true) ∧ (∀ b ∈ kb', b.getLsbD 7 = false) :=
  ⟨List.replicate 18 0x80#8, List.replicate 18 0x7F#8, List.replicate 4 0xFF#8, by decide⟩

theorem witness_LoadCompletes :
    ∃ s s' : State,
      (s.inputs.rst = false ∧ s.ph = .idle ∧ s.seq.toNat ≤ 142 ∧ s.inputs.start = true) ∧
      (s'.inputs.rst = false ∧ s'.ph = .done ∧ s'.seq.toNat ≤ 142 ∧ s'.inputs.start = true) :=
  ⟨coreAt .idle 0#8 [startOnes], coreAt .done 142#8 [startOnes], by decide⟩

theorem witness_LoadForgetsThePast :
    ∃ a b ta tb : State, a ≠ b ∧ a.inputs.key = b.inputs.key ∧ a.inputs.iv = b.inputs.iv ∧
      exec .load a = .next ta ∧ exec .load b = .next tb :=
  ⟨coreAt .idle 0#8 [startOnes], coreAt .done 142#8 [startOnes], _, _, by decide, rfl, rfl,
    exec_load_of_selected (by decide), exec_load_of_selected (by decide)⟩

theorem witness_UntappedCellsDoNotEnter :
    ∃ r r' : Regs, r ≠ r' ∧
      ∀ j : Fin 23, j ∉ ([2, 3, 4, 6, 8, 16, 17, 19, 21] : List (Fin 23)) → r[j] = r'[j] :=
  ⟨zeroRegs, zeroRegs.set 2 1#7, by decide⟩

theorem witness_EveryEnteringCellMatters :
    (0 : Fin 23) ∉ ([2, 3, 4, 6, 8, 16, 17, 19, 21] : List (Fin 23)) ∧
    (22 : Fin 23) ∉ ([2, 3, 4, 6, 8, 16, 17, 19, 21] : List (Fin 23)) ∧ 1#7 ≠ zeroRegs[0] := by decide

theorem witness_RoundIsInvertible : Function.Bijective ti0.exp := Function.bijective_id

theorem witness_CellsTravelDownTheRegister : (22 < 23 ∧ 22 + 0 < 23) ∧ 22 < 23 ∧ ¬ 22 + 1 < 23 := by decide

theorem witness_InitrIsOneSilentRound :
    (busyAt 45#8).inputs.rst = false ∧ (busyAt 45#8).ph = .busy ∧ (busyAt 45#8).seq.toNat < 46 := by decide

theorem witness_GenrPacksOneFilteredBit :
    ∀ q ∈ [46#8, 141#8], (busyAt q).inputs.rst = false ∧ (busyAt q).ph = .busy ∧
      46 ≤ (busyAt q).seq.toNat ∧ (busyAt q).seq.toNat < 142 := by decide

theorem witness_FinZeroesTheRegisterAndEnds :
    (busyAt 142#8).inputs.rst = false ∧ (busyAt 142#8).ph = .busy ∧ (busyAt 142#8).seq.toNat = 142 := by
  decide

theorem witness_StartLoadsWhenNotBusy :
    ∀ s ∈ [State.reset, coreAt .done 142#8 []], s.inputs.rst = false ∧ (s.ph = .idle ∨ s.ph = .done) ∧
      s.seq.toNat ≤ 142 := by decide

theorem witness_StartIsIgnoredWhileBusy :
    (∀ q ∈ [45#8, 46#8, 141#8, 142#8], (busyAt q).inputs.rst = false ∧ (busyAt q).ph = .busy) ∧
    (busyAt 45#8).seq.toNat < 46 ∧
    (46 ≤ (busyAt 46#8).seq.toNat ∧ (busyAt 46#8).seq.toNat < 142) ∧
    (46 ≤ (busyAt 141#8).seq.toNat ∧ (busyAt 141#8).seq.toNat < 142) ∧
    (busyAt 142#8).seq.toNat = 142 := by decide

theorem witness_ResetZeroesEverything : Inputs.quiet.rst = false ∧ Inputs.quiet.start = false := by decide

theorem witness_RaisedStartStepsAsStart : (coreAt .busy 142#8 [startOnes]).inputs.start = true := by decide

theorem witness_StepRunsTheSelectedRow :
    (coreAt .busy 7#8 [Inputs.resetPulse]).inputs.rst = true ∧
    ((coreAt .done 142#8 [startOnes]).inputs.rst = false ∧
      (coreAt .done 142#8 [startOnes]).seq.toNat ≤ 142 ∧
      (coreAt .done 142#8 [startOnes]).inputs.start = true) ∧
    ((coreAt .idle 0#8 []).inputs.rst = false ∧ (coreAt .idle 0#8 []).seq.toNat ≤ 142 ∧
      (coreAt .idle 0#8 []).inputs.start = false) ∧
    (∀ q ∈ [0#8, 45#8, 46#8, 141#8, 142#8], (busyAt q).inputs.rst = false ∧ (busyAt q).ph = .busy) := by
  decide

theorem witness_PlacedInstructionIsRun : decodeTableWord 8 1 = some .initr := by decide

theorem witness_ResetBeatsStart :
    (coreAt .busy 77#8 [{ startOnes with rst := true }]).inputs.rst = true := by decide

/-- A core just after a LOAD of zeros, the state the invariants' witnesses use. -/
def justLoaded : State :=
  State.reset.loaded (Vector.replicate 18 0#7) (Vector.replicate 4 0#8)

theorem justLoaded_inv : justLoaded.Inv :=
  ⟨by decide, by decide, by decide, by decide, by decide⟩

theorem justLoaded_step : step justLoaded = .next (justLoaded.silentRound Config.tables).passed :=
  step_of_initr (by decide)

theorem witness_LegalStatesNeverStop : ∃ s : State, s.Inv := ⟨justLoaded, justLoaded_inv⟩

theorem witness_EveryStepKeepsTheShape : ∃ s t : State, s.Inv ∧ step s = .next t :=
  ⟨justLoaded, _, justLoaded_inv, justLoaded_step⟩

theorem witness_EveryStepKeepsTheRunGenuine : ∃ s t : State, s.Genuine ∧ step s = .next t :=
  ⟨justLoaded, _, ⟨justLoaded_inv, _, _, fun _ => rfl, fun _ => rfl, fun h => absurd h (by decide)⟩,
    justLoaded_step⟩

theorem witness_StuckStatesStopByName :
    ((coreAt .reserved 0#8 []).inputs.rst = false ∧ (coreAt .reserved 0#8 []).ph = .reserved) ∧
    (∀ ph ∈ [Phase.idle, .busy, .done], ∀ q ∈ [143#8, 255#8], (coreAt ph q []).inputs.rst = false ∧
      (coreAt ph q []).ph ≠ .reserved ∧ 143 ≤ (coreAt ph q []).seq.toNat) ∧
    (coreAt .reserved 0#8 [Inputs.resetPulse]).inputs.rst = true := by decide

theorem witness_PhaseHasThreeWriters :
    nextHas (step (coreAt .idle 0#8 [startOnes])) (fun t => t.ph == .busy) = true ∧
    nextHas (step (busyAt 142#8)) (fun t => t.ph == .done) = true ∧
    nextHas (step (coreAt .done 142#8 [Inputs.resetPulse])) (fun t => t.ph == .idle) = true := by decide

theorem witness_SeqCountsRounds :
    (coreAt .idle 0#8 [startOnes]).transition = .load ∧ (busyAt 45#8).transition = .initr ∧
    (busyAt 46#8).transition = .genr ∧ (busyAt 141#8).transition = .genr ∧
    (busyAt 142#8).transition = .fin ∧ (coreAt .done 142#8 []).transition = .hold ∧
    (busyAt 9#8 |>.onPorts fun _ => Inputs.resetPulse).transition = .reset ∧
    ∃ s t : State, s.Inv ∧ step s = .next t :=
  ⟨by decide, by decide, by decide, by decide, by decide, by decide, by decide, justLoaded, _,
    justLoaded_inv, justLoaded_step⟩

theorem witness_OnlyFinRaisesDone :
    (busyAt 142#8).done = false ∧ nextHas (step (busyAt 142#8)) (fun t => t.done) = true := by decide

/-- A finished core whose keystream is all ones, about to be started again. -/
def doneOnes : State := { coreAt .done 142#8 [startOnes] with ks := Vector.replicate 12 0xFF#8 }

theorem witness_KeystreamBitsAreNeverCleared :
    ksBit doneOnes.ks 95 = true ∧ nextHas (step doneOnes) (fun t => ksBit t.ks 95 == false) = true := by
  decide

theorem witness_ControlDoesNotDependOnData :
    ∃ a b ta : State, a ≠ b ∧ a.ph = b.ph ∧ a.seq = b.seq ∧ a.inputs.rst = b.inputs.rst ∧
      a.inputs.start = b.inputs.start ∧ step a = .next ta :=
  ⟨justLoaded, { justLoaded with r := loadedExample }, _, by decide, rfl, rfl, rfl, rfl, justLoaded_step⟩

theorem witness_StateSurvivesAnyHold :
    ∃ s : State, s.ph = .done ∧ s.seq.toNat ≤ 142 ∧ s.host.take 2 ≠ [] ∧
      ∀ p ∈ s.host.take 2, p.rst = false ∧ p.start = false :=
  ⟨coreAt .done 142#8 [Inputs.quiet, Inputs.quiet], by decide⟩

theorem witness_FlagClauses :
    (coreAt .done 142#8 []).done = true ∧ (coreAt .idle 0#8 []).done = false := by decide

theorem witness_KeystreamBitOrder : 0 < 96 ∧ 95 < 96 := by decide

/-- A core with `start` raised now and raised again all through the run. -/
def startedOver : State := coreAt .done 142#8 (List.replicate 144 startOnes)

theorem witness_RunDeliversItsKeystream :
    (startedOver.ph = .idle ∨ startedOver.ph = .done) ∧ startedOver.seq.toNat ≤ 142 ∧
      startedOver.inputs.start = true ∧ startedOver.NoResetFor 144 := by
  refine ⟨by decide, by decide, by decide, ?_⟩
  intro p hp
  rw [List.eq_of_mem_replicate (List.mem_of_mem_take hp)]
  rfl

theorem witness_DoneStaysLowDuringARun :
    startedOver.ph = .done ∧ startedOver.seq.toNat ≤ 142 ∧ startedOver.inputs.start = true ∧
      startedOver.NoResetFor 143 ∧ (1 ≤ 1 ∧ 1 ≤ 143) ∧ 1 ≤ 143 ∧ 143 ≤ 143 := by
  refine ⟨by decide, by decide, by decide, ?_, by decide⟩
  intro p hp
  rw [List.eq_of_mem_replicate (List.mem_of_mem_take hp)]
  rfl

theorem witness_FullRunListsAsItsExpansion :
    (coreAt .idle 0#8 [startOnes]).ph = .idle ∧ (coreAt .idle 0#8 [startOnes]).seq.toNat ≤ 142 ∧
      (coreAt .idle 0#8 [startOnes]).inputs.start = true ∧
      (coreAt .idle 0#8 [startOnes]).NoResetFor 144 := by
  refine ⟨by decide, by decide, by decide, ?_⟩
  intro p hp
  rw [List.mem_singleton.mp (List.mem_of_mem_take hp)]
  rfl

theorem witness_PortsCannotDisturbARun :
    ∃ (n : Nat) (a b : State), a.host ≠ b.host ∧ a.sameCore b ∧ a.ph = .busy ∧ a.seq.toNat + n = 143 ∧
      a.NoResetFor n ∧ b.NoResetFor n := by
  refine ⟨143, justLoaded, { justLoaded with host := [startOnes] }, by decide, ⟨rfl, rfl, rfl, rfl⟩, rfl,
    by decide, ?_, ?_⟩
  · intro p hp; simp [justLoaded, State.loaded, State.reset] at hp
  · intro p hp
    rw [List.mem_singleton.mp (List.mem_of_mem_take hp)]
    rfl

theorem witness_RunIgnoresMaskedIvBits :
    ivEffective #v[0xFF#8, 0xFF#8, 0xFF#8, 0xFF#8] = ivEffective #v[0xFE#8, 0x7E#8, 0x7E#8, 0x7E#8] := by
  decide

theorem witness_RunBytesChecksInOrder :
    (List.replicate 19 0#8).length ≠ 18 ∧
    ((List.replicate 18 0#8).length = 18 ∧ (List.replicate 3 0#8).length ≠ 4) ∧
    ((List.replicate 4 0#8).length = 4 ∧ 11 ≠ 12) ∧
    (∃ b ∈ List.replicate 18 0x80#8, 128 ≤ b.toNat) ∧
    (∀ b ∈ List.replicate 18 0x7F#8, b.toNat < 128) := by decide

/-- A call on a core in phase `ph`, with this key buffer, a zero IV and a 12-byte buffer of sentinels (P5). -/
def callOn (ph : Phase) (kb : List Byte) : WrapperResult :=
  (callRunBytes kb (List.replicate 4 0#8) ⟨coreAt ph 0#8 [], List.replicate 12 0xEE#8⟩).1

/-- One call for each way to fail: a length, the key range, a core that is not ready. -/
theorem witness_FailedCallTouchesNothing :
    ∀ ks, callOn .idle (List.replicate 17 0x7F#8) ≠ .ok ks ∧
      callOn .idle (List.replicate 17 0x7F#8 ++ [0x80#8]) ≠ .ok ks ∧
      callOn .busy (List.replicate 18 0x7F#8) ≠ .ok ks := by
  have hl : callOn .idle (List.replicate 17 0x7F#8) = .invalidInputLength .key := by decide
  have hk : callOn .idle (List.replicate 17 0x7F#8 ++ [0x80#8]) = .refused .keyElementOutOfRange := by
    decide
  have hb : callOn .busy (List.replicate 18 0x7F#8) = .refused .coreNotReady := by decide
  intro ks
  rw [hl, hk, hb]
  simp

theorem witness_AcceptedCallDeliversTheKeystream :
    (⟨State.reset, List.replicate 12 0xEE#8⟩ : Caller).out.length = 12 ∧ State.reset.ph = .idle ∧
      State.reset.seq.toNat ≤ 142 := by decide

end Sys2Proof.Tests
end

section
/-! The status flags are read off PH (spec/10_state.md R16, R17). -/

namespace Sys2Proof.Machine

@[simp] theorem State.busy_iff (s : State) : s.busy = true ↔ s.ph = .busy := beq_iff_eq

@[simp] theorem State.done_iff (s : State) : s.done = true ↔ s.ph = .done := beq_iff_eq

/-- PH holds one code at a time, so the flags exclude each other (R17). -/
theorem State.not_busy_and_done (s : State) : ¬ (s.busy = true ∧ s.done = true) := by
  rintro ⟨hbusy, hdone⟩
  have hph : Phase.busy = Phase.done := (s.busy_iff.mp hbusy).symm.trans (s.done_iff.mp hdone)
  cases hph

/-- Settles O46: each flag tests PH against its own phase, and PH is not in two phases at once. -/
theorem flagsFollowThePhase : Obligations.FlagsFollowThePhase := by
  intro s
  refine ⟨s.busy_iff, s.done_iff, ?_⟩
  rw [Bool.eq_false_iff, ne_eq, Bool.and_eq_true]
  exact s.not_busy_and_done

end Sys2Proof.Machine
end

section
/-! The bit order of the keystream buffer, and what one keystream write does to each bit
(spec/20_memory.md R33). -/

namespace Sys2Proof.Machine

/-- Byte number and place within the byte together name one keystream bit. -/
theorem ksPosition_inj {n i : Nat} (hbyte : n / 8 = i / 8) : 7 - n % 8 = 7 - i % 8 ↔ n = i := by
  omega

/-- The byte a keystream write touches: the old one OR the mask. -/
theorem getElem_ksBitSet_same (ks : Keystream) (i : Nat) (z : Bit) (h : i / 8 < 12) :
    (ksBitSet ks i z)[i / 8] = ks[i / 8] ||| ksMask i z := by
  rw [getElem_ksBitSet, if_pos rfl]

/-- A keystream write ORs into its own bit and leaves every other bit as it was. -/
theorem ksBit_ksBitSet (ks : Keystream) (i n : Nat) (z : Bit) (hn : n < 96) :
    ksBit (ksBitSet ks i z) n = (ksBit ks n || (decide (n = i) && z == 1#1)) := by
  have hb : n / 8 < 12 := by omega
  rw [ksBit_eq_getLsbD _ n hb, ksBit_eq_getLsbD _ n hb, getElem_ksBitSet]
  by_cases hbyte : n / 8 = i / 8
  · rw [if_pos hbyte, BitVec.getLsbD_or, getLsbD_ksMask]
    simp only [ksPosition_inj hbyte]
  · have hne : n ≠ i := fun e => hbyte (congrArg (· / 8) e)
    simp [hbyte, hne]

/-- Settles O48: the bit order is the definition's, and the write is read byte by byte, then bit by
bit. -/
theorem keystreamBitOrder : Obligations.KeystreamBitOrder := by
  intro ks i hi z
  have hb : i / 8 < 12 := by omega
  exact ⟨ksBit_eq_getLsbD ks i hb, getElem_ksBitSet_same ks i z hb,
    fun n hn => ksBit_ksBitSet ks i n z hn⟩

end Sys2Proof.Machine
end

section
/-! The decidable table check, conjunct by conjunct: each count of R74's `wf_tables` says what the
table's own rule says (spec/40_field_and_tables.md R68, R69, R70, R74). -/

namespace Sys2Proof

/-- A predicate counted once over all elements holds of exactly one element. -/
theorem countP_allElems_eq_one (p : Elem → Bool) :
    allElems.countP p = 1 ↔ ∃! a : Elem, p a = true := by
  rw [countP_allElems, Finset.card_eq_one, Finset.singleton_iff_unique_mem]
  simp only [Finset.mem_filter_univ]

/-- A predicate counted once over the nonzero elements holds of exactly one nonzero element. -/
theorem countP_allElems_tail_eq_one (p : Elem → Bool) :
    allElems.tail.countP p = 1 ↔ ∃! a : Elem, a ≠ 0#7 ∧ p a = true := by
  rw [countP_allElems_tail, Finset.card_eq_one, Finset.singleton_iff_unique_mem]
  simp only [Finset.mem_filter_univ]

namespace Tables

/-- `PERM` hits every value exactly once, which is bijectivity (R68). -/
theorem permOk_iff (t : Tables) : t.permOk = true ↔ Function.Bijective t.perm := by
  rw [Function.bijective_iff_existsUnique]
  simp only [permOk, List.all_eq_true, mem_allElems, forall_const, beq_iff_eq,
    countP_allElems_eq_one]

theorem expZeroOk_iff (t : Tables) : t.expZeroOk = true ↔ t.exp 0#7 = 0#7 := beq_iff_eq

/-- `EXP` takes every nonzero value at exactly one nonzero index (R69). -/
theorem expOk_iff (t : Tables) :
    t.expOk = true ↔ ∀ v : Elem, v ≠ 0#7 → ∃! a : Elem, a ≠ 0#7 ∧ t.exp a = v := by
  simp only [expOk, List.all_eq_true, mem_allElems_tail, beq_iff_eq, countP_allElems_tail_eq_one]

/-- `FILT` is balanced (R70). -/
theorem filtOk_iff (t : Tables) :
    t.filtOk = true ↔ (Finset.univ.filter fun a : Elem => t.filt a = 1#1).card = 64 := by
  simp only [filtOk, beq_iff_eq, countP_allElems]

/-- The check is the conjunction of its four parts (R74). -/
theorem wf_iff (t : Tables) :
    t.wf = true ↔
      t.permOk = true ∧ t.expZeroOk = true ∧ t.expOk = true ∧ t.filtOk = true := by
  simp only [wf, Bool.and_eq_true, and_assoc]

end Tables

/-- Settles O9: the check's four parts are the four clauses, one by one. -/
theorem tableCheckMeansTheConstraints : Obligations.TableCheckMeansTheConstraints := by
  intro t
  rw [t.wf_iff, t.permOk_iff, t.expZeroOk_iff, t.expOk_iff, t.filtOk_iff]

end Sys2Proof
end

section
/-! Loading and the silent rounds: where the cells of a loaded register come from and what FAN can be
(spec/41_initializer.md R80 to R84). -/

namespace Sys2Proof.Machine

/-- The extra IV bit alone survives its mask, at its own place (R82). -/
theorem and_ivXMask (b : Byte) : b &&& ivXMask = if b.getLsbD 7 then ivXMask else 0#8 :=
  BitVec.and_twoPow b 7

/-- The four shifts spread the extra IV bit over bits 0, 2, 4 and 6, or there is nothing to spread
(R82). -/
theorem fan_eq (b : Byte) : fan b = if b.getLsbD 7 then 0x55#7 else 0x00#7 := by
  simp only [fan, and_ivXMask]
  split
  · decide
  · decide

section LoadedCells
variable (key : Key) (iv : Iv)

/-- The key is loaded unchanged (R80). -/
theorem getElem_loadV_key (j : Nat) (h : j < 18) : (loadV key iv)[j] = key[j] := by
  rw [getElem_loadV, dif_pos h]

/-- The IV bytes are loaded masked, above the key (R81). -/
theorem getElem_loadV_iv (k : Nat) (h : k < 4) : (loadV key iv)[18 + k] = ivCell iv[k] := by
  have hkey : ¬ 18 + k < 18 := by omega
  have hiv : 18 + k < 22 := by omega
  rw [getElem_loadV, dif_neg hkey, dif_pos hiv]
  simp only [Nat.add_sub_cancel_left]

/-- The newest cell is loaded with the fan-out of the extra IV bit (R82). -/
theorem getElem_loadV_fan : (loadV key iv)[22] = fan iv[0] := by
  rw [getElem_loadV, dif_neg (by decide), dif_neg (by decide)]

end LoadedCells

/-- Settles O11: LOAD is selected, so it answers the loaded state, whose cells are those of LOADV. -/
theorem loadCompletes : Obligations.LoadCompletes := by
  intro s hrst hph hseq hstart
  have hsel : s.selectsLoad := ⟨hrst, hph, hseq, hstart⟩
  refine ⟨_, exec_load_of_selected hsel, getElem_loadV_key _ _, getElem_loadV_iv _ _, ?fanOut,
    getElem_zeroKs, rfl, rfl, rfl, rfl, rfl⟩
  case fanOut => rw [State.loaded_r, getElem_loadV_fan, fan_eq]

/-- Settles O10: FAN by the two values of bit 7, and the newest cell of LOADV. -/
theorem fanOutHasTwoValues : Obligations.FanOutHasTwoValues :=
  ⟨fan_eq, getElem_loadV_fan⟩

/-- Settles O22: INITR is selected, and its effect is one silent round with the machine's tables. -/
theorem initrIsOneSilentRound : Obligations.InitrIsOneSilentRound := by
  intro s hrst hph hseq
  have hsel : s.selectsInitr := ⟨hrst, hph, hseq⟩
  exact exec_initr_of_selected hsel

end Sys2Proof.Machine
end

section
/-! The feedback round: which terms the feedback value is made of, and where a round puts each cell
(spec/42_feedback_round.md R90, R92). -/

namespace Sys2Proof.Machine

/-- The tap sum is the twelve plain taps in the order R90 lists them: the fold's initial zero adds
nothing. -/
theorem tapSum_eq (r : Regs) :
    tapSum r = r[20] ^^^ r[18] ^^^ r[15] ^^^ r[14] ^^^ r[13] ^^^ r[12] ^^^ r[11] ^^^ r[10] ^^^
      r[9] ^^^ r[7] ^^^ r[5] ^^^ r[1] := by
  rw [← BitVec.zero_xor (x := r[20])]
  rfl

/-- The feedback value as the permuted newest cell, the taps and the exponentiated oldest cell (R90). -/
theorem feedback_eq (t : Tables) (r : Regs) :
    feedback t r = t.perm r[22] ^^^ tapSum r ^^^ t.exp r[0] := rfl

/-- Settles O15: the taps are written out, and the grouping of the XORs does not matter (R66). -/
theorem feedbackIsFourteenTerms : Obligations.FeedbackIsFourteenTerms := by
  intro t r
  rw [feedback_eq, tapSum_eq]
  simp only [BitVec.xor_assoc]

/-- Every cell but the newest is, after a shift, the next one up (R92). -/
theorem getElem_shiftIn_of_lt (r : Regs) (x : Elem) (j : Nat) (h : j < 22) :
    (shiftIn r x)[j] = r[j + 1] := by
  rw [getElem_shiftIn, dif_pos h]

/-- The newest cell after a shift is the value shifted in (R92). -/
@[simp] theorem getElem_shiftIn_newest (r : Regs) (x : Elem) : (shiftIn r x)[22] = x := by
  rw [getElem_shiftIn, dif_neg (Nat.lt_irrefl 22)]

/-- Settles O18: a round is a shift of the feedback value into the old register, read cell by
cell. -/
theorem roundShiftsDownAndAppends : Obligations.RoundShiftsDownAndAppends := by
  intro t r
  rw [stepRegs_fst]
  exact ⟨getElem_shiftIn_of_lt r _, getElem_shiftIn_newest r _, stepRegs_snd t r⟩

end Sys2Proof.Machine
end

section
/-! The keystream generator: what one GENR writes, and which feedback value each keystream bit is
(spec/43_keystream_generator.md R100, R101, R105). -/

namespace Sys2Proof.Machine

/-- Settles O23: GENR is selected, so it answers one filtered round, whose keystream write is read bit
by bit and byte by byte. -/
theorem genrPacksOneFilteredBit : Obligations.GenrPacksOneFilteredBit := by
  intro s hrst hph hlo hhi
  have hsel : s.selectsGenr := ⟨hrst, hph, hlo, hhi⟩
  refine ⟨_, exec_genr_of_selected hsel, rfl, toNat_seq_succ hhi, rfl, rfl, ?bits, ?bytes⟩
  case bits =>
    intro n hn
    rw [State.filteredRound_ks, ksBit_ksBitSet _ _ _ _ hn]
    by_cases hi : n = s.seq.toNat - 46
    · have hbit : n = s.bitIndex := hi
      rw [if_pos hi, decide_eq_true hbit, Bool.true_and]
    · have hbit : n ≠ s.bitIndex := hi
      rw [if_neg hi, decide_eq_false hbit, Bool.false_and, Bool.or_false]
  case bytes =>
    intro b hb hne
    rw [State.filteredRound_ks, getElem_ksBitSet]
    exact if_neg hne

/-- After n turns the generate loop has written the filtered feedback values of its first n rounds, and
no other bit (R105). -/
theorem ksBit_generateLoop (t : Tables) (r : Regs) (n i : Nat) (hi : i < 96) :
    ksBit (generateLoop t r n).2 i =
      (decide (i < n) && t.filt (feedback t (roundsFrom t r i)) == 1#1) := by
  induction n with
  | zero => rw [generateLoop_zero, ksBit_zeroKs]; rfl
  | succ n ih =>
    rw [generateLoop_snd_succ, ksBit_ksBitSet _ _ _ _ hi, ih]
    rcases Nat.lt_trichotomy i n with hlt | rfl | hgt
    · simp [hlt, hlt.ne, hlt.trans n.lt_succ_self]
    · simp
    · simp [hgt.ne', Nat.not_lt.mpr hgt.le, Nat.not_lt.mpr (Nat.succ_le_of_lt hgt)]

/-- The rounds of the generate phase go on from those of the initialization (R85, R105). -/
theorem roundsFrom_initializeRegs (t : Tables) (key : Key) (iv : Iv) (n : Nat) :
    roundsFrom t (initializeRegs t key iv) n = roundsFrom t (loadV key iv) (nInit + n) :=
  (roundsFrom_add t (loadV key iv) nInit n).symm

/-- Settles O53: `run` is the generate loop after its 96 turns, started where the 46 silent rounds
end. -/
theorem keystreamBitIsFilteredFeedback : Obligations.KeystreamBitIsFilteredFeedback := by
  intro t key iv i hi
  calc ksBit (runKs t key iv) i
      = ksBit (generateLoop t (initializeRegs t key iv) nGen).2 i := rfl
    _ = (t.filt (feedback t (roundsFrom t (initializeRegs t key iv) i)) == 1#1) := by
        have hgen : i < nGen := hi
        rw [ksBit_generateLoop _ _ _ _ hi, decide_eq_true hgen, Bool.true_and]
    _ = (t.filt (feedback t (roundsFrom t (loadV key iv) (46 + i))) == 1#1) := by
        rw [roundsFrom_initializeRegs]; rfl

end Sys2Proof.Machine
end

section
/-! Each effect of a run keeps the run's own data: the registers of SEQ rounds after LOAD, and the
keystream bits written so far (spec/41_initializer.md R85; spec/43_keystream_generator.md R105). -/

namespace Sys2Proof.Machine

/-- The keystream index does not move while the rounds are silent. -/
theorem State.bitIndex_silentRound {t : Tables} {s : State} (h : s.seq.toNat < nInit) :
    (s.silentRound t).bitIndex = s.bitIndex := by
  have hend : s.seq.toNat < seqEnd := h.trans (by decide)
  simp only [State.bitIndex, State.silentRound_seq, toNat_seq_succ hend]
  omega

/-- A filtered round moves the keystream index on by one. -/
theorem State.bitIndex_filteredRound {t : Tables} {s : State} (hlo : nInit ≤ s.seq.toNat)
    (hhi : s.seq.toNat < seqEnd) : (s.filteredRound t).bitIndex = s.bitIndex + 1 := by
  simp only [State.bitIndex, State.filteredRound_seq, toNat_seq_succ hhi]
  omega

/-- A round on the registers of SEQ rounds gives those of one more. -/
theorem stepRegs_of_seq_rounds {t : Tables} {r₀ r : Regs} {q : BitVec 8} (hq : q.toNat < seqEnd)
    (h : r = roundsFrom t r₀ q.toNat) :
    (stepRegs t r).1 = roundsFrom t r₀ (q + 1#8).toNat := by
  rw [toNat_seq_succ hq, roundsFrom_succ, ← h, stepRegs_fst]

section InRunOf
variable {key : Key} {iv : Iv} {s : State}

/-- While the core is busy, only the registers and the bits written so far are asked for. -/
theorem State.InRunOf.of_busy (hph : s.ph = .busy)
    (hr : s.r = roundsFrom Config.tables (loadV key iv) s.seq.toNat)
    (hks : s.ks = (generateLoop Config.tables (initializeRegs Config.tables key iv) s.bitIndex).2) :
    s.InRunOf key iv :=
  ⟨fun _ => hr, fun _ => hks, fun hdone => by simp [hph] at hdone⟩

/-- A LOAD begins the run of its own operands. -/
theorem State.InRunOf.loaded (key : Key) (iv : Iv) (s : State) : (s.loaded key iv).InRunOf key iv :=
  .of_busy rfl rfl rfl

theorem State.InRunOf.silentRound (h : s.InRunOf key iv) (hph : s.ph = .busy)
    (hseq : s.seq.toNat < nInit) : (s.silentRound Config.tables).InRunOf key iv := by
  have hend : s.seq.toNat < seqEnd := hseq.trans (by decide)
  refine .of_busy hph (stepRegs_of_seq_rounds hend (h.busyRegs hph)) ?_
  rw [State.bitIndex_silentRound hseq]
  exact h.busyKs hph

theorem State.InRunOf.filteredRound (h : s.InRunOf key iv) (hph : s.ph = .busy)
    (hlo : nInit ≤ s.seq.toNat) (hhi : s.seq.toNat < seqEnd) :
    (s.filteredRound Config.tables).InRunOf key iv := by
  refine .of_busy hph (stepRegs_of_seq_rounds hhi (h.busyRegs hph)) ?_
  have hregs : roundsFrom Config.tables (initializeRegs Config.tables key iv) s.bitIndex = s.r := by
    rw [roundsFrom_initializeRegs, State.bitIndex, Nat.add_sub_cancel' hlo, ← h.busyRegs hph]
  rw [State.bitIndex_filteredRound hlo hhi, generateLoop_snd_succ, hregs, ← h.busyKs hph]
  rfl

/-- FIN after the last round leaves the whole keystream (R106). -/
theorem State.InRunOf.finished (h : s.InRunOf key iv) (hph : s.ph = .busy)
    (hseq : s.seq.toNat = seqEnd) : s.finished.InRunOf key iv := by
  refine ⟨fun hbusy => by simp at hbusy, fun hbusy => by simp at hbusy, fun _ => ?_⟩
  have hall : s.bitIndex = nGen := by rw [State.bitIndex, hseq]; rfl
  rw [State.finished_ks, h.busyKs hph, hall]
  rfl

/-- The passing of the host's schedule is no part of a run. -/
theorem State.InRunOf.passed (h : s.InRunOf key iv) : s.passed.InRunOf key iv :=
  ⟨h.busyRegs, h.busyKs, h.doneKs⟩

end InRunOf

end Sys2Proof.Machine
end

section
/-! A whole run under any schedule without a reset: LOAD, then one round a transition, then FIN
(spec/43_keystream_generator.md R106; spec/44_host_interface.md R119, R120). -/

namespace Sys2Proof.Machine

/-- A schedule without a reset has none after its first m transitions either. -/
theorem State.NoResetFor.drop {m n : Nat} {s t : State} (h : s.NoResetFor (m + n))
    (ht : t.host = s.host.drop m) : t.NoResetFor n := by
  intro p hp
  rw [ht, List.take_drop] at hp
  exact h p (List.mem_of_mem_drop hp)

/-- Nor is the reset raised in the transition that comes after those n. -/
theorem State.NoResetFor.after {n : Nat} {s t : State} (h : s.NoResetFor (n + 1))
    (ht : t.host = s.host.drop n) : t.inputs.rst = false :=
  (h.drop ht : t.NoResetFor 1).now

/-- One step more at the end of several. -/
theorem stepMany_succ_of_last {n : Nat} {s u t : State} (hmany : stepMany n s = .next u)
    (hlast : step u = .next t) : stepMany (n + 1) s = .next t := by
  rw [stepMany_add n 1 hmany, stepMany_succ_of_next 0 hlast, stepMany_zero]

/-- The core is busy with the run of `key` and `iv`, n rounds after its LOAD. -/
structure State.RunningAt (key : Key) (iv : Iv) (n : Nat) (s : State) : Prop where
  busy : s.ph = .busy
  seq : s.seq.toNat = n
  inRun : s.InRunOf key iv

/-- The first transition of a run: LOAD of the operands on the ports (R119). -/
theorem step_begins_run {s : State} (hrest : s.ph = .idle ∨ s.ph = .done) (hseq : s.seq.toNat ≤ seqEnd)
    (hstart : s.inputs.start = true) (hrst : s.inputs.rst = false) :
    ∃ t, step s = .next t ∧ t.RunningAt s.inputs.key s.inputs.iv 0 ∧ t.host = s.host.tail :=
  ⟨_, step_of_load ⟨hrst, hrest, hseq, hstart⟩, ⟨rfl, rfl, (State.InRunOf.loaded _ _ s).passed⟩, rfl⟩

/-- A run under way goes one round on, silent or filtered, whatever the other ports carry (R116). -/
theorem step_continues_run {key : Key} {iv : Iv} {n : Nat} {s : State} (h : s.RunningAt key iv n)
    (hn : n < seqEnd) (hrst : s.inputs.rst = false) :
    ∃ t, step s = .next t ∧ t.RunningAt key iv (n + 1) ∧ t.host = s.host.tail := by
  obtain ⟨hph, rfl, hrun⟩ := h
  rcases Nat.lt_or_ge s.seq.toNat nInit with hlt | hge
  · exact ⟨_, step_of_initr ⟨hrst, hph, hlt⟩,
      ⟨hph, toNat_seq_succ hn, (hrun.silentRound hph hlt).passed⟩, rfl⟩
  · exact ⟨_, step_of_genr ⟨hrst, hph, hge, hn⟩,
      ⟨hph, toNat_seq_succ hn, (hrun.filteredRound hph hge hn).passed⟩, rfl⟩

/-- After the LOAD and n of its rounds a run is n rounds on, and the schedule has moved with it
(R118, R120). -/
theorem stepMany_running {s : State} (hrest : s.ph = .idle ∨ s.ph = .done)
    (hseq : s.seq.toNat ≤ seqEnd) (hstart : s.inputs.start = true) (n : Nat) (hn : n ≤ seqEnd)
    (hreset : s.NoResetFor (n + 1)) :
    ∃ t, stepMany (n + 1) s = .next t ∧ t.RunningAt s.inputs.key s.inputs.iv n ∧
      t.host = s.host.drop (n + 1) := by
  induction n with
  | zero =>
    obtain ⟨t, hstep, hrun, hhost⟩ := step_begins_run hrest hseq hstart hreset.now
    exact ⟨t, stepMany_succ_of_next 0 hstep, hrun, hhost.trans List.drop_one.symm⟩
  | succ n ih =>
    obtain ⟨u, hmany, hrun, hhost⟩ := ih (Nat.le_of_succ_le hn) (hreset.mono (Nat.le_succ _))
    obtain ⟨t, hstep, hrun', hhost'⟩ := step_continues_run hrun hn (hreset.after hhost)
    refine ⟨t, stepMany_succ_of_last hmany hstep, hrun', ?_⟩
    rw [hhost', hhost, List.tail_drop]

/-- Settles O49: 143 transitions bring the run to SEQ 142, and the last one is FIN. -/
theorem runDeliversItsKeystream : Obligations.RunDeliversItsKeystream := by
  intro s hrest hseq hstart hreset
  obtain ⟨u, hmany, ⟨hbusy, hend, hrun⟩, hhost⟩ :=
    stepMany_running hrest hseq hstart 142 (Nat.le_refl _) (hreset.mono (by decide))
  have hfin : step u = .next u.finished.passed := step_of_fin ⟨hreset.after hhost, hbusy, hend⟩
  have hks : u.ks = runKs Config.tables s.inputs.key s.inputs.iv := (hrun.finished hbusy hend).doneKs rfl
  refine ⟨u.finished.passed, stepMany_succ_of_last hmany hfin, ?outputs, rfl, hend, ?schedule⟩
  case outputs => rw [← hks]; rfl
  case schedule => rw [State.passed_host, State.finished_host, hhost, List.tail_drop]

end Sys2Proof.Machine
end

section
/-! The host's START: loaded by a core at rest, ignored by a busy one
(spec/44_host_interface.md R115, R116). -/

namespace Sys2Proof.Machine

/-- Settles O26: START at rest takes LOAD with its operands, and the loaded state has the fields stated. -/
theorem startLoadsWhenNotBusy : Obligations.StartLoadsWhenNotBusy := by
  intro s key iv hrst hph hseq
  exact ⟨s.loaded key iv, exec_start_of_rest hrst hph hseq, rfl, rfl, rfl, rfl, rfl, rfl, rfl⟩

section Busy
variable (key : Key) (iv : Iv) {s : State}

/-- The first 46 transitions of a run go on as INITR under a START (R116). -/
theorem exec_start_of_selectsInitr (h : s.selectsInitr) :
    exec (.start key iv) s = .next (s.silentRound Config.tables) := by
  obtain ⟨hrst, hph, hseq⟩ := h
  simp [exec, execStart, selectTransition, hrst, hph, hseq]

/-- The 96 emitting transitions of a run go on as GENR under a START (R116). -/
theorem exec_start_of_selectsGenr (h : s.selectsGenr) :
    exec (.start key iv) s = .next (s.filteredRound Config.tables) := by
  obtain ⟨hrst, hph, hge, hlt⟩ := h
  simp [exec, execStart, selectTransition, hrst, hph, Nat.not_lt.mpr hge, hlt]

/-- The last transition of a run is FIN under a START too (R116). -/
theorem exec_start_of_selectsFin (h : s.selectsFin) :
    exec (.start key iv) s = .next s.finished := by
  obtain ⟨hrst, hph, hend⟩ := h
  have hge : ¬ seqEnd < nInit := by decide
  simp [exec, execStart, selectTransition, hrst, hph, hend, hge]

end Busy

/-- Settles O27: in each range of SEQ, START and the micro-operation selected there have the same effect. -/
theorem startIsIgnoredWhileBusy : Obligations.StartIsIgnoredWhileBusy := by
  intro s key iv hrst hph
  refine ⟨fun hlt => ?initr, fun hge hlt => ?genr, fun hend => ?fin⟩
  case initr =>
    have hsel : s.selectsInitr := ⟨hrst, hph, hlt⟩
    rw [exec_start_of_selectsInitr key iv hsel, exec_initr_of_selected hsel]
  case genr =>
    have hsel : s.selectsGenr := ⟨hrst, hph, hge, hlt⟩
    rw [exec_start_of_selectsGenr key iv hsel, exec_genr_of_selected hsel]
  case fin =>
    have hsel : s.selectsFin := ⟨hrst, hph, hend⟩
    rw [exec_start_of_selectsFin key iv hsel, exec_fin_of_selected hsel]

end Sys2Proof.Machine
end

section
/-! What a call of the byte-level wrapper can touch (spec/44_host_interface.md R121; spec/60_exceptions.md
R132, R134). -/

namespace Sys2Proof.Machine

/-- A call answers `ok` with a core that shows the keystream and a buffer that holds it, or hands its
caller back (R121, R132). -/
theorem callRunBytes_ok_or_unchanged (kb ib : List Byte) (c : Caller) :
    (∃ t ks, t.ksPort = some ks ∧ callRunBytes kb ib c = (.ok ks, ⟨t, ks.toList⟩)) ∨
      (callRunBytes kb ib c).2 = c := by
  unfold callRunBytes
  split
  next => exact .inr rfl -- a check failed
  next =>
    split
    next =>
      split
      next t _ =>
        split
        next ks hks => exact .inl ⟨t, ks, hks, rfl⟩
        next => exact .inr rfl -- the run did not end in DONE
      next => exact .inr rfl -- the run faulted
      next => exact .inr rfl -- the run was refused
    next => exact .inr rfl -- the core is not at rest

/-- Settles O56: only an `ok` answer comes with another core or buffer. -/
theorem failedCallTouchesNothing : Obligations.FailedCallTouchesNothing := by
  intro kb ib c hfails
  obtain ⟨t, ks, -, hok⟩ | hunchanged := callRunBytes_ok_or_unchanged kb ib c
  · exact absurd (congrArg Prod.fst hok) (hfails ks)
  · exact hunchanged

end Sys2Proof.Machine
end

section
/-! The numbers of a call's answer (spec/60_exceptions.md R133). -/

namespace Sys2Proof.Machine

@[simp] theorem WrapperResult.code_ok (ks : Keystream) :
    (WrapperResult.ok ks).code = some 0 := rfl
@[simp] theorem WrapperResult.code_invalidInputLength (what : LengthOperand) :
    (WrapperResult.invalidInputLength what).code = some 1 := rfl

@[simp] theorem LengthOperand.code_key : LengthOperand.code .key = 0 := rfl
@[simp] theorem LengthOperand.code_iv : LengthOperand.code .iv = 1 := rfl
@[simp] theorem LengthOperand.code_out : LengthOperand.code .out = 2 := rfl

/-- Settles O58: the codes of R133, one equation for each answer that has a code and each operand. -/
theorem resultCodes : Obligations.ResultCodes :=
  ⟨WrapperResult.code_ok, WrapperResult.code_invalidInputLength,
    LengthOperand.code_key, LengthOperand.code_iv, LengthOperand.code_out⟩

end Sys2Proof.Machine
end

section
/-! RESET leaves a core at rest: clearing it again changes nothing, and it holds until the host raises
a pin (spec/70_reset_and_hazards.md R150). -/

namespace Sys2Proof.Machine

/-- RESET is idempotent (R150). -/
@[simp] theorem State.cleared_cleared (s : State) : s.cleared.cleared = s.cleared := rfl

/-- A cleared core is in IDLE with SEQ 0, so ports that raise neither pin select a hold, whatever they
carry for the key and the IV (R55, R150). -/
theorem State.selectsHold_of_cleared (s : State) {p : Inputs} (later : List Inputs)
    (hrst : p.rst = false) (hstart : p.start = false) :
    ({ s.cleared with host := p :: later } : State).selectsHold := by
  refine ⟨hrst, .inl s.cleared_ph, ?_, hstart⟩
  rw [State.cleared_seq]
  decide

/-- The passing of the host's schedule is no change of the core. -/
theorem State.sameCore_passed (s : State) : s.passed.sameCore s :=
  ⟨s.passed_r, s.passed_ks, s.passed_seq, s.passed_ph⟩

/-- Settles O30: RESET answers the cleared state, and a step from it under unraised pins is a hold. -/
theorem resetZeroesEverything : Obligations.ResetZeroesEverything := by
  intro s
  refine ⟨s.cleared, exec_reset s, rfl, rfl, rfl, rfl, rfl, rfl, rfl, ?idempotent, ?holds⟩
  case idempotent => rw [exec_reset, State.cleared_cleared]
  case holds =>
    intro p later hrst hstart
    exact ⟨_, step_of_hold (s.selectsHold_of_cleared later hrst hstart), State.sameCore_passed _⟩

end Sys2Proof.Machine
end

section
/-! The rows of the step relation as equivalences: a transition is taken exactly under its row's condition
(spec/30_encoding.md R55; spec/44_host_interface.md R119). -/

namespace Sys2Proof.Machine

section Rows
variable {s : State}

theorem transition_of_rst (h : s.inputs.rst = true) : s.transition = .reset := by
  simp [State.transition, selectTransition, h]

theorem transition_of_rest (hrst : s.inputs.rst = false) (hph : s.ph = .idle ∨ s.ph = .done) :
    s.transition = restTransition s.inputs.start s.seq := by
  obtain hph | hph := hph <;> simp [State.transition, selectTransition, hrst, hph]

theorem transition_of_selectsLoad (h : s.selectsLoad) : s.transition = .load := by
  obtain ⟨hrst, hph, hseq, hstart⟩ := h
  simp [transition_of_rest hrst hph, restTransition, Nat.not_lt.mpr hseq, hstart]

theorem transition_of_selectsInitr (h : s.selectsInitr) : s.transition = .initr := by
  obtain ⟨hrst, hph, hlt⟩ := h
  simp [State.transition, selectTransition, hrst, hph, hlt]

theorem transition_of_selectsGenr (h : s.selectsGenr) : s.transition = .genr := by
  obtain ⟨hrst, hph, hge, hlt⟩ := h
  simp [State.transition, selectTransition, hrst, hph, Nat.not_lt.mpr hge, hlt]

theorem transition_of_selectsFin (h : s.selectsFin) : s.transition = .fin := by
  obtain ⟨hrst, hph, hend⟩ := h
  have hge : ¬ seqEnd < nInit := by decide
  simp [State.transition, selectTransition, hrst, hph, hend, hge]

theorem transition_of_reserved (hrst : s.inputs.rst = false) (hph : s.ph = .reserved) :
    s.transition = .stuckPhase := by
  simp [State.transition, selectTransition, hrst, hph]

theorem transition_of_seq_gt (hrst : s.inputs.rst = false) (hph : s.ph ≠ .reserved)
    (hseq : seqEnd < s.seq.toNat) : s.transition = .stuckSequence := by
  have hinit : ¬ s.seq.toNat < nInit := Nat.not_lt.mpr (Nat.le_trans (by decide) hseq.le)
  cases hp : s.ph with
  | idle => simp [transition_of_rest hrst (.inl hp), restTransition, hseq]
  | done => simp [transition_of_rest hrst (.inr hp), restTransition, hseq]
  | busy =>
    simp [State.transition, selectTransition, hrst, hp, hinit, Nat.not_lt.mpr hseq.le, hseq.ne']
  | reserved => exact absurd hp hph

end Rows

/-- The condition of each row of R119 on the state that takes it, the stuck cases of U3 and U4 included. -/
def State.meetsRow (s : State) : Transition → Prop
  | .reset => s.inputs.rst = true
  | .load => s.selectsLoad
  | .hold => s.selectsHold
  | .initr => s.selectsInitr
  | .genr => s.selectsGenr
  | .fin => s.selectsFin
  | .stuckPhase => s.inputs.rst = false ∧ s.ph = .reserved
  | .stuckSequence => s.inputs.rst = false ∧ s.ph ≠ .reserved ∧ seqEnd < s.seq.toNat

/-- A state meets the condition of the transition it takes. -/
theorem State.meetsRow_transition (s : State) : s.meetsRow s.transition := by
  rcases transition_cases s with ⟨h, ht⟩ | ⟨h, ht⟩ | ⟨h, ht⟩ | ⟨h, ht⟩ | ⟨h, ht⟩ | ⟨h, ht⟩ | ⟨h, ht⟩ |
      ⟨h, ht⟩ <;>
    rw [ht] <;> exact h

theorem State.meetsRow_of_transition_eq {s : State} {tr : Transition} (h : s.transition = tr) :
    s.meetsRow tr := h ▸ s.meetsRow_transition

section Iff
variable {s : State}

theorem transition_eq_load_iff : s.transition = .load ↔ s.selectsLoad :=
  ⟨State.meetsRow_of_transition_eq, transition_of_selectsLoad⟩

theorem transition_eq_initr_iff : s.transition = .initr ↔ s.selectsInitr :=
  ⟨State.meetsRow_of_transition_eq, transition_of_selectsInitr⟩

theorem transition_eq_genr_iff : s.transition = .genr ↔ s.selectsGenr :=
  ⟨State.meetsRow_of_transition_eq, transition_of_selectsGenr⟩

theorem transition_eq_fin_iff : s.transition = .fin ↔ s.selectsFin :=
  ⟨State.meetsRow_of_transition_eq, transition_of_selectsFin⟩

theorem exec_load_completes_iff : (∃ t, exec .load s = .next t) ↔ s.selectsLoad :=
  ⟨fun ⟨_, h⟩ => (exec_load_next h).1, fun h => ⟨_, exec_load_of_selected h⟩⟩

theorem exec_initr_completes_iff : (∃ t, exec .initr s = .next t) ↔ s.selectsInitr :=
  ⟨fun ⟨_, h⟩ => (exec_initr_next h).1, fun h => ⟨_, exec_initr_of_selected h⟩⟩

theorem exec_genr_completes_iff : (∃ t, exec .genr s = .next t) ↔ s.selectsGenr :=
  ⟨fun ⟨_, h⟩ => (exec_genr_next h).1, fun h => ⟨_, exec_genr_of_selected h⟩⟩

theorem exec_fin_completes_iff : (∃ t, exec .fin s = .next t) ↔ s.selectsFin :=
  ⟨fun ⟨_, h⟩ => (exec_fin_next h).1, fun h => ⟨_, exec_fin_of_selected h⟩⟩

end Iff

/-- Settles O25: a micro-operation completes under its own "taken when", and that is the condition of its
row. -/
theorem microOpsCompleteExactlyWhenSelected : Obligations.MicroOpsCompleteExactlyWhenSelected := by
  intro s
  exact ⟨exec_load_completes_iff.trans transition_eq_load_iff.symm,
    exec_initr_completes_iff.trans transition_eq_initr_iff.symm,
    exec_genr_completes_iff.trans transition_eq_genr_iff.symm,
    exec_fin_completes_iff.trans transition_eq_fin_iff.symm⟩

/-- Settles O32: where a row's condition holds, the step and its instruction have the same effect. -/
theorem stepRunsTheSelectedRow : Obligations.StepRunsTheSelectedRow := by
  intro s
  refine ⟨fun hrst => step_of_rst hrst,
    fun hrst hrest hseq => ⟨fun hstart => ?load, fun hstart => step_of_hold ⟨hrst, hrest, hseq, hstart⟩⟩,
    fun hrst hph => ⟨fun hlt => ?initr, fun hge hlt => ?genr, fun hend => ?fin⟩⟩
  case load =>
    have hsel : s.selectsLoad := ⟨hrst, hrest, hseq, hstart⟩
    rw [step_of_load hsel, exec_load_of_selected hsel, passTransition]
  case initr =>
    have hsel : s.selectsInitr := ⟨hrst, hph, hlt⟩
    rw [step_of_initr hsel, exec_initr_of_selected hsel, passTransition]
  case genr =>
    have hsel : s.selectsGenr := ⟨hrst, hph, hge, hlt⟩
    rw [step_of_genr hsel, exec_genr_of_selected hsel, passTransition]
  case fin =>
    have hsel : s.selectsFin := ⟨hrst, hph, hend⟩
    rw [step_of_fin hsel, exec_fin_of_selected hsel, passTransition]

end Sys2Proof.Machine
end

section
/-! Every effect of a transition keeps the shape of a reachable state (spec/10_state.md R15, R16, R24, R25;
spec/20_memory.md R33). -/

namespace Sys2Proof.Machine

section Shape
variable {s : State}

/-- In BUSY the shape asks for SEQ's range and for the keystream bits not yet produced. -/
theorem State.Inv.of_busy (hph : s.ph = .busy) (hseq : s.seq.toNat ≤ seqEnd)
    (hks : ∀ i < nGen, s.seq.toNat ≤ nInit + i → ksBit s.ks i = false) : s.Inv where
  phaseLegal := by simp [hph]
  idleZero := by simp [hph]
  busySeq _ := hseq
  busyUnwritten _ := hks
  doneEnded := by simp [hph]

/-- In every state of legal shape SEQ is in the range of R15. -/
theorem State.Inv.seq_le (h : s.Inv) : s.seq.toNat ≤ seqEnd := by
  cases hph : s.ph with
  | idle =>
    obtain ⟨-, -, hzero⟩ := h.idleZero hph
    rw [hzero]
    decide
  | busy => exact h.busySeq hph
  | done =>
    obtain ⟨hend, -⟩ := h.doneEnded hph
    exact hend.le
  | reserved => exact absurd hph h.phaseLegal

theorem State.inv_cleared (s : State) : s.cleared.Inv := by
  constructor <;> simp

theorem State.inv_loaded (key : Key) (iv : Iv) (s : State) : (s.loaded key iv).Inv :=
  .of_busy rfl (Nat.zero_le _) fun i _ _ => ksBit_zeroKs i

/-- A silent round writes no keystream bit, and only fewer bits are left to produce. -/
theorem State.Inv.silentRound (h : s.Inv) (hsel : s.selectsInitr) :
    (s.silentRound Config.tables).Inv := by
  obtain ⟨-, hph, hlt⟩ := hsel
  have hend : s.seq.toNat < seqEnd := hlt.trans (by decide)
  have hnext : (s.seq + 1#8).toNat = s.seq.toNat + 1 := toNat_seq_succ hend
  refine .of_busy hph (hnext.trans_le hend) fun i hi hge => ?_
  rw [State.silentRound_seq, hnext] at hge
  exact h.busyUnwritten hph i hi (Nat.le_of_succ_le hge)

/-- A filtered round writes the bit of its own index, which is produced from then on. -/
theorem State.Inv.filteredRound (h : s.Inv) (hsel : s.selectsGenr) :
    (s.filteredRound Config.tables).Inv := by
  obtain ⟨-, hph, hlo, hhi⟩ := hsel
  have hnext : (s.seq + 1#8).toNat = s.seq.toNat + 1 := toNat_seq_succ hhi
  refine .of_busy hph (hnext.trans_le hhi) fun i hi hge => ?_
  rw [State.filteredRound_seq, hnext] at hge
  have hother : i ≠ s.bitIndex := by simp only [State.bitIndex]; omega
  rw [State.filteredRound_ks, ksBit_ksBitSet _ _ _ _ hi, h.busyUnwritten hph i hi (Nat.le_of_succ_le hge),
    decide_eq_false hother, Bool.false_and, Bool.or_false]

theorem State.inv_finished (hseq : s.seq.toNat = seqEnd) : s.finished.Inv := by
  constructor <;> simp [hseq]

theorem State.Inv.passed (h : s.Inv) : s.passed.Inv := h.of_sameCore s.sameCore_passed

end Shape

/-- Settles O36: by the transition taken, each of whose effects keeps the shape. -/
theorem everyStepKeepsTheShape : Obligations.EveryStepKeepsTheShape := by
  intro s t h hstep
  rcases step_next hstep with ⟨-, rfl⟩ | ⟨-, rfl⟩ | ⟨-, rfl⟩ | ⟨hsel, rfl⟩ | ⟨hsel, rfl⟩ |
      ⟨⟨-, -, hend⟩, rfl⟩
  · exact s.inv_cleared.passed
  · exact (s.inv_loaded _ _).passed
  · exact h.passed
  · exact (h.silentRound hsel).passed
  · exact (h.filteredRound hsel).passed
  · exact (State.inv_finished hend).passed

/-- Settles O37: the state after reset is a cleared one. -/
theorem resetHasTheShape : Obligations.ResetHasTheShape := State.reset.inv_cleared

/-- A core in IDLE is in no run, so it meets the run invariant of any key and IV. -/
theorem State.InRunOf.of_idle {s : State} (key : Key) (iv : Iv) (hph : s.ph = .idle) : s.InRunOf key iv := by
  constructor <;> simp [hph]

/-- Settles O39: the state after reset is in IDLE. -/
theorem resetIsGenuine : Obligations.ResetIsGenuine :=
  ⟨resetHasTheShape, Vector.replicate 18 0#7, Vector.replicate 4 0#8, .of_idle _ _ rfl⟩

/-- A LOAD begins the run of its operands, a round or FIN goes on with the run there is, and the rest leaves
it (R85, R105, R106). -/
theorem State.InRunOf.step {key : Key} {iv : Iv} {s t : State} (h : s.InRunOf key iv)
    (hstep : step s = .next t) : ∃ key' iv', t.InRunOf key' iv' := by
  rcases step_next hstep with ⟨-, rfl⟩ | ⟨-, rfl⟩ | ⟨-, rfl⟩ | ⟨⟨-, hph, hlt⟩, rfl⟩ |
      ⟨⟨-, hph, hlo, hhi⟩, rfl⟩ | ⟨⟨-, hph, hend⟩, rfl⟩
  · exact ⟨key, iv, .of_idle _ _ rfl⟩
  · exact ⟨_, _, (State.InRunOf.loaded _ _ s).passed⟩
  · exact ⟨key, iv, h.passed⟩
  · exact ⟨key, iv, (h.silentRound hph hlt).passed⟩
  · exact ⟨key, iv, (h.filteredRound hph hlo hhi).passed⟩
  · exact ⟨key, iv, (h.finished hph hend).passed⟩

/-- Settles O38: the shape is kept, and so is the run the state is in. -/
theorem everyStepKeepsTheRunGenuine : Obligations.EveryStepKeepsTheRunGenuine := by
  rintro s t ⟨hinv, key, iv, hrun⟩ hstep
  exact ⟨everyStepKeepsTheShape s t hinv hstep, hrun.step hstep⟩

/-- Settles O34: a state of legal shape has no reserved phase and SEQ in its range, so it is in no stuck
case. -/
theorem legalStatesNeverStop : Obligations.LegalStatesNeverStop := by
  intro s h
  rcases transition_cases s with ⟨hs, -⟩ | ⟨hs, -⟩ | ⟨hs, -⟩ | ⟨hs, -⟩ | ⟨hs, -⟩ | ⟨hs, -⟩ |
      ⟨⟨-, hph⟩, -⟩ | ⟨⟨-, -, hseq⟩, -⟩
  · exact ⟨_, step_of_rst hs⟩
  · exact ⟨_, step_of_load hs⟩
  · exact ⟨_, step_of_hold hs⟩
  · exact ⟨_, step_of_initr hs⟩
  · exact ⟨_, step_of_genr hs⟩
  · exact ⟨_, step_of_fin hs⟩
  · exact absurd hph h.phaseLegal
  · exact absurd hseq (Nat.not_lt.mpr h.seq_le)

end Sys2Proof.Machine
end

section
/-! Codes and byte images: a key and an IV come back from their bytes and the bytes from what is read of
them, so encoder and decoder undo each other (spec/30_encoding.md R51, R52, R54, R56, R60, R61). -/

namespace Sys2Proof

/-- An element is below 128, so the eighth bit of its image is clear (R11, R51). -/
theorem Elem.byteImage_toNat_lt (a : Elem) : (Elem.byteImage a).toNat < 128 := by
  simp only [Elem.byteImage, BitVec.toNat_setWidth]
  omega

@[simp] theorem Elem.setWidth_byteImage (a : Elem) : (Elem.byteImage a).setWidth 7 = a := by
  simp [Elem.byteImage, BitVec.setWidth_setWidth_of_le]

/-- A byte below 128 is the image of the element it holds (R51). -/
theorem Elem.byteImage_setWidth {b : Byte} (h : b.toNat < 128) : Elem.byteImage (b.setWidth 7) = b := by
  apply BitVec.eq_of_toNat_eq
  simp only [Elem.byteImage, BitVec.toNat_setWidth]
  omega

/-- Bit 7 of a byte is what makes it 128 or more. -/
theorem getLsbD_seven_eq_false_iff (b : Byte) : b.getLsbD 7 = false ↔ b.toNat < 128 := by
  rw [← BitVec.msb_eq_getLsbD_last b, BitVec.msb_eq_false_iff_two_mul_lt]
  omega

theorem keyRangeOk_iff (kb : List Byte) : keyRangeOk kb = true ↔ ∀ b ∈ kb, b.toNat < 128 := by
  simp [keyRangeOk]

@[simp] theorem length_keyBytes (key : Key) : (keyBytes key).length = 18 := by simp [keyBytes]

@[simp] theorem length_ivBytes (iv : Iv) : (ivBytes iv).length = 4 := by simp [ivBytes]

theorem keyRangeOk_keyBytes (key : Key) : keyRangeOk (keyBytes key) = true := by
  rw [keyRangeOk_iff, keyBytes]
  exact List.forall_mem_map.mpr fun a _ => Elem.byteImage_toNat_lt a

@[simp] theorem keyOfBytes_keyBytes (key : Key) : keyOfBytes (keyBytes key) = key := by
  ext j hj : 1
  simp [keyOfBytes, keyBytes]

@[simp] theorem ivOfBytes_ivBytes (iv : Iv) : ivOfBytes (ivBytes iv) = iv := by
  ext k hk : 1
  simp [ivOfBytes, ivBytes]

/-- 18 bytes below 128 are the image of the key read from them (R51). -/
theorem keyBytes_keyOfBytes {kb : List Byte} (hlen : kb.length = 18) (hrange : ∀ b ∈ kb, b.toNat < 128) :
    keyBytes (keyOfBytes kb) = kb := by
  apply List.ext_getElem (by simp [hlen])
  intro j _ hj
  have hb : kb[j].toNat < 128 := hrange _ (List.getElem_mem hj)
  simp [keyBytes, keyOfBytes, hj, Elem.byteImage_setWidth hb]

/-- 4 bytes are the image of the IV read from them, whatever they are (R52). -/
theorem ivBytes_ivOfBytes {ib : List Byte} (hlen : ib.length = 4) : ivBytes (ivOfBytes ib) = ib := by
  apply List.ext_getElem (by simp [hlen])
  intro k _ hk
  simp [ivBytes, ivOfBytes, hk]

/-- Key bytes and IV bytes behind the start pin are told apart by their numbers. -/
theorem decodeStartOperands_append {kb ib : List Byte} (hkey : kb.length = 18) (hiv : ib.length = 4) :
    decodeStartOperands (kb ++ ib) =
      if keyRangeOk kb then .instr (.start (keyOfBytes kb) (ivOfBytes ib))
      else .rejected .keyElementOutOfRange := by
  have htake : (kb ++ ib).take 18 = kb := hkey ▸ List.take_left
  have hdrop : (kb ++ ib).drop 18 = ib := hkey ▸ List.drop_left
  simp [decodeStartOperands, htake, hdrop, hkey, hiv]

theorem decode_start_raised (operands : List Byte) :
    decode ⟨.start, 0x01#8 :: operands⟩ = decodeStartOperands operands := rfl

/-- START's code is read back with its operands (R56, R61). -/
theorem decode_encode_start (key : Key) (iv : Iv) :
    decode (encode (.start key iv)) = .instr (.start key iv) := by
  rw [encode, decode_start_raised, decodeStartOperands_append (length_keyBytes key) (length_ivBytes iv),
    if_pos (keyRangeOk_keyBytes key), keyOfBytes_keyBytes, ivOfBytes_ivBytes]

/-- Settles O1: the five codes without operands are fixed bytes, and START's bytes are the images of its
operands. -/
theorem decodeOfEncode : Obligations.DecodeOfEncode := by
  intro i
  cases i with
  | load => rfl
  | initr => rfl
  | genr => rfl
  | fin => rfl
  | start key iv => exact decode_encode_start key iv
  | reset => rfl

/-- The four micro-operation codes are the bytes 0 to 3 (R54). -/
theorem encode_of_decodeUopByte {b : Byte} {i : Instr} (h : decodeUopByte b = .instr i) :
    encode i = ⟨.uop, [b]⟩ := by
  unfold decodeUopByte at h
  split at h
  next hb =>
    have hcodes : b = 0#8 ∨ b = 1#8 ∨ b = 2#8 ∨ b = 3#8 := by bv_omega
    obtain rfl | rfl | rfl | rfl := hcodes <;> cases h <;> rfl
  next => cases h

/-- A pin stands for something only when its byte is 1. -/
theorem decodePin_eq_instr {pin : Byte} {k : Decoded} {i : Instr} (h : decodePin pin k = .instr i) :
    pin = 1#8 ∧ k = .instr i := by
  unfold decodePin at h
  split at h
  next hpin => exact ⟨hpin, h⟩
  next => split at h <;> cases h

/-- Operands that are read are the images of what is read (R51, R52, R61). -/
theorem encode_of_decodeStartOperands {operands : List Byte} {i : Instr}
    (h : decodeStartOperands operands = .instr i) : encode i = ⟨.start, 0x01#8 :: operands⟩ := by
  unfold decodeStartOperands at h
  split at h
  next => cases h
  next hlen =>
    split at h
    next hrange =>
      cases h
      have hkey : (operands.take 18).length = 18 := by rw [List.length_take]; omega
      have hiv : (operands.drop 18).length = 4 := by rw [List.length_drop]; omega
      rw [encode, keyBytes_keyOfBytes hkey ((keyRangeOk_iff _).mp hrange), ivBytes_ivOfBytes hiv,
        List.take_append_drop]
    next => cases h

/-- Settles O2: along the wires of the decoder, each of which accepts only the bytes the encoder writes. -/
theorem acceptedBytesAreTheCode : Obligations.AcceptedBytesAreTheCode := by
  rintro ⟨wire, bytes⟩ i h
  unfold decode at h
  split at h
  next hwire hbytes => cases hwire; cases hbytes; exact encode_of_decodeUopByte h
  next => cases h
  next hwire hbytes =>
    cases hwire; cases hbytes
    obtain ⟨rfl, hoperands⟩ := decodePin_eq_instr h
    exact encode_of_decodeStartOperands hoperands
  next => cases h
  next hwire hbytes =>
    cases hwire; cases hbytes
    obtain ⟨rfl, hreset⟩ := decodePin_eq_instr h
    cases hreset
    rfl
  next => cases h

/-- The key range check is on bit 7 of each byte (R51). -/
theorem keyRangeOk_iff_getLsbD (kb : List Byte) : keyRangeOk kb = true ↔ ∀ b ∈ kb, b.getLsbD 7 = false := by
  simp only [keyRangeOk_iff, getLsbD_seven_eq_false_iff]

/-- Settles O4: the operands are split by their lengths, and only the key range decides. -/
theorem keyByteWithTopBitIsNoCode : Obligations.KeyByteWithTopBitIsNoCode := by
  intro kb ib hkey hiv
  rw [decode_start_raised, decodeStartOperands_append hkey hiv]
  refine ⟨fun ⟨b, hb, htop⟩ => if_neg fun hok => ?_,
    fun hclear => if_pos ((keyRangeOk_iff_getLsbD kb).mpr hclear)⟩
  have hclear : b.getLsbD 7 = false := (keyRangeOk_iff_getLsbD kb).mp hok b hb
  rw [htop] at hclear
  cases hclear

/-- Settles O3: each word is decoded by evaluation. -/
theorem opcodeMapWordsDecode : Obligations.OpcodeMapWordsDecode := by
  unfold Obligations.OpcodeMapWordsDecode
  decide

end Sys2Proof
end

section
/-! Fields laid side by side on a flat bus come out at their own places (spec/20_memory.md R35). -/

namespace Sys2Proof.Machine

/-- Bit i of field j is bit w * j + i of the whole. -/
theorem testBit_flatNat {w : Nat} (xs : List (BitVec w)) (j i : Nat) (hj : j < xs.length) (hi : i < w) :
    (flatNat w (xs.map BitVec.toNat)).testBit (w * j + i) = xs[j].getLsbD i := by
  induction xs generalizing j with
  | nil => cases hj
  | cons x xs ih =>
    rw [List.map_cons, flatNat, Nat.add_comm, Nat.testBit_two_pow_mul_add _ x.isLt]
    cases j with
    | zero => simp [hi, BitVec.getLsbD]
    | succ j =>
      have hplace : w * (j + 1) + i = w + (w * j + i) := by ring
      have hge : ¬ w + (w * j + i) < w := by omega
      rw [hplace, if_neg hge, Nat.add_sub_cancel_left, ih j (Nat.lt_of_succ_lt_succ hj),
        List.getElem_cons_succ]

/-- A bus wide enough for field j shows it there. -/
theorem extractLsb'_flatNat {w n : Nat} (xs : List (BitVec w)) (j : Nat) (hj : j < xs.length)
    (hn : w * xs.length ≤ n) :
    (BitVec.ofNat n (flatNat w (xs.map BitVec.toNat))).extractLsb' (w * j) w = xs[j] := by
  ext i hi
  have hin : w * j + i < n := by
    have hfield : w * (j + 1) ≤ w * xs.length := Nat.mul_le_mul_left w hj
    rw [Nat.mul_succ] at hfield
    omega
  rw [← BitVec.getLsbD_eq_getElem, ← BitVec.getLsbD_eq_getElem, BitVec.getLsbD_extractLsb',
    BitVec.getLsbD_ofNat, testBit_flatNat xs j i hj hi]
  simp [hi, hin]

/-- Settles O5: each of the three buses is as wide as its fields together. -/
theorem flatBusesCarryEachElement : Obligations.FlatBusesCarryEachElement :=
  ⟨fun key j h => extractLsb'_flatNat key.toList j (by simpa) (by simp),
    fun iv k h => extractLsb'_flatNat iv.toList k (by simpa) (by simp),
    fun ks b h => extractLsb'_flatNat ks.toList b (by simpa) (by simp)⟩

end Sys2Proof.Machine
end

section
/-! Multiplication in the field is linear in each factor (spec/40_field_and_tables.md R65, R66, R67). -/

namespace Sys2Proof.Machine

theorem xor_xor_xor_comm {w : Nat} (a b c d : BitVec w) :
    (a ^^^ b) ^^^ (c ^^^ d) = (a ^^^ c) ^^^ (b ^^^ d) := by
  ac_rfl

/-- Adding `z` under the XOR of two conditions is adding it under each of them: a double addition cancels. -/
theorem ite_xor_xor {w : Nat} (c d : Bool) (x y z : BitVec w) :
    (if c ^^ d then (x ^^^ y) ^^^ z else x ^^^ y) =
      (if c then x ^^^ z else x) ^^^ (if d then y ^^^ z else y) := by
  cases c <;> cases d
  · rfl
  · exact BitVec.xor_assoc x y z
  · simp only [Bool.xor_false, Bool.false_eq_true, if_true, if_false]
    ac_rfl
  · have hcancel : (x ^^^ z) ^^^ (y ^^^ z) = x ^^^ y := by
      rw [xor_xor_xor_comm, BitVec.xor_self, BitVec.xor_zero]
    exact hcancel.symm

theorem clmul_xor_left (a b c : Elem) : clmul (a ^^^ b) c = clmul a c ^^^ clmul b c := by
  refine List.foldl_hom₂ _ (· ^^^ ·) _ _ _ 0#14 0#14 fun x y k => ?_
  rw [BitVec.setWidth_xor, BitVec.shiftLeft_xor_distrib]
  split
  · exact xor_xor_xor_comm _ _ _ _
  · rfl

theorem clmul_xor_right (a b c : Elem) : clmul c (a ^^^ b) = clmul c a ^^^ clmul c b := by
  refine List.foldl_hom₂ _ (· ^^^ ·) _ _ _ 0#14 0#14 fun x y k => ?_
  rw [BitVec.getLsbD_xor]
  exact (ite_xor_xor _ _ x y _).symm

theorem reduce_xor (p q : BitVec 14) : reduce (p ^^^ q) = reduce p ^^^ reduce q := by
  refine List.foldl_hom₂ _ (· ^^^ ·) _ _ _ p q fun x y k => ?_
  rw [BitVec.getLsbD_xor]
  exact (ite_xor_xor _ _ x y _).symm

/-- Settles O7: the carry-less product is linear in each factor, and reduction is linear. -/
theorem fieldProductDistributes : Obligations.FieldProductDistributes := by
  intro a b c
  simp only [gmul, fieldAdd, clmul_xor_left, clmul_xor_right, reduce_xor, BitVec.setWidth_xor, and_self]

theorem gmul_zero (a : Elem) : gmul a 0x00#7 = 0x00#7 := by revert a; decide

theorem gmul_one (a : Elem) : gmul a 0x01#7 = a := by revert a; decide

/-- Settles O6: the two general products, and the four written out by evaluation. -/
theorem fieldProductCorners : Obligations.FieldProductCorners :=
  ⟨gmul_zero, gmul_one, by decide, by decide, by decide, by decide⟩

end Sys2Proof.Machine
end

section
/-! The machine's tables pass the table check, whatever the free bijections behind them are
(spec/40_field_and_tables.md R68, R69, R70, R74). -/

namespace Sys2Proof

/-- `EXP` takes each nonzero value at exactly one nonzero index, since a permutation of 1..127 stands behind
it (R69). -/
theorem Config.tables_exp_existsUnique {v : Elem} (hv : v ≠ 0#7) :
    ∃! a : Elem, a ≠ 0#7 ∧ Config.tables.exp a = v := by
  obtain ⟨⟨a, ha⟩, hav⟩ := Config.expFree.surjective ⟨v, hv⟩
  have hexp : Config.tables.exp a = v := by rw [Config.tables_exp_of_ne ha, hav]
  exact ⟨a, ⟨ha, hexp⟩, fun b hb => Config.tables_exp_injective (hb.2.trans hexp.symm)⟩

/-- `FILT` has as many ones as there are odd elements, since it is the lowest bit of a bijection (R70). -/
theorem Config.card_tables_filt :
    (Finset.univ.filter fun a : Elem => Config.tables.filt a = 1#1).card = 64 := by
  have hodd : (Finset.univ.filter fun a : Elem => a.setWidth 1 = 1#1).card = 64 := by decide
  rw [← hodd]
  refine Finset.card_equiv Config.filtFree fun a => ?_
  simp only [Finset.mem_filter_univ]
  rfl

/-- Settles O8: each of the three free values gives its clause of the check. -/
theorem machineTablesAreWellFormed : Obligations.MachineTablesAreWellFormed :=
  (tableCheckMeansTheConstraints Config.tables).mpr
    ⟨Config.permFree.bijective, Config.tables_exp_zero, fun _ hv => Config.tables_exp_existsUnique hv,
      Config.card_tables_filt⟩

end Sys2Proof
end

section
/-! What a LOAD keeps of the IV: 24 masked bits in four cells and one extra bit in cell 22
(spec/41_initializer.md R81 to R83, R86). -/

namespace Sys2Proof.Machine

/-- The masked byte fits a cell, so the cell holds all of it (R81). -/
theorem setWidth_ivCell (b : Byte) : (ivCell b).setWidth 8 = b &&& ivMask := by
  revert b; decide

theorem ivCell_eq_iff (a b : Byte) : ivCell a = ivCell b ↔ a &&& ivMask = b &&& ivMask := by
  refine ⟨fun h => ?_, fun h => congrArg (BitVec.setWidth 7) h⟩
  rw [← setWidth_ivCell, ← setWidth_ivCell, h]

/-- The fan-out tells only the extra bit apart (R82). -/
theorem fan_eq_iff (a b : Byte) : fan a = fan b ↔ a &&& ivXMask = b &&& ivXMask := by
  rw [fan_eq, fan_eq, and_ivXMask, and_ivXMask]
  cases a.getLsbD 7 <;> cases b.getLsbD 7 <;> decide

/-- Agreement under the union of two masks is agreement under each. -/
theorem and_or_eq_and_or_iff {w : Nat} (a b m n : BitVec w) :
    a &&& (m ||| n) = b &&& (m ||| n) ↔ a &&& m = b &&& m ∧ a &&& n = b &&& n := by
  constructor
  · intro h
    have restrict (k : BitVec w) (hk : (m ||| n) &&& k = k) : a &&& k = b &&& k := by
      rw [← hk, ← BitVec.and_assoc, ← BitVec.and_assoc, h]
    refine ⟨restrict m ?_, restrict n ?_⟩ <;> (ext i hi; simp [Bool.and_or_distrib_right])
  · rintro ⟨hm, hn⟩
    rw [BitVec.and_or_distrib_left, BitVec.and_or_distrib_left, hm, hn]

/-- IV byte 0 takes effect through its cell and through the fan-out (R52). -/
theorem and_ivEffective_zero (a b : Byte) :
    a &&& 0xFE#8 = b &&& 0xFE#8 ↔ ivCell a = ivCell b ∧ fan a = fan b := by
  rw [ivCell_eq_iff, fan_eq_iff]
  exact and_or_eq_and_or_iff a b ivMask ivXMask

/-- Two loads agree exactly in the key, the IV cells and the fan-out (R83). -/
theorem loadV_eq_iff (key key' : Key) (iv iv' : Iv) :
    loadV key iv = loadV key' iv' ↔
      key = key' ∧ (∀ (k : Nat) (_ : k < 4), ivCell iv[k] = ivCell iv'[k]) ∧ fan iv[0] = fan iv'[0] := by
  constructor
  · intro h
    refine ⟨?key, fun k hk => ?iv, ?fan⟩
    case key =>
      ext j hj : 1
      rw [← getElem_loadV_key key iv j hj, ← getElem_loadV_key key' iv' j hj]
      simp only [h]
    case iv =>
      rw [← getElem_loadV_iv key iv k hk, ← getElem_loadV_iv key' iv' k hk]
      simp only [h]
    case fan =>
      rw [← getElem_loadV_fan key iv, ← getElem_loadV_fan key' iv', h]
  · rintro ⟨rfl, hiv, hfan⟩
    ext j hj : 1
    rw [getElem_loadV, getElem_loadV, hfan]
    simp only [hiv]

/-- The effective bits byte by byte (R52). -/
theorem ivEffective_eq_iff_bytes (iv iv' : Iv) :
    ivEffective iv = ivEffective iv' ↔
      iv[0] &&& 0xFE#8 = iv'[0] &&& 0xFE#8 ∧ iv[1] &&& 0x7E#8 = iv'[1] &&& 0x7E#8 ∧
        iv[2] &&& 0x7E#8 = iv'[2] &&& 0x7E#8 ∧ iv[3] &&& 0x7E#8 = iv'[3] &&& 0x7E#8 := by
  simp [ivEffective]

/-- The effective bits of two IVs agree exactly when their cells and their fan-outs do (R52, R86). -/
theorem ivEffective_eq_iff (iv iv' : Iv) :
    ivEffective iv = ivEffective iv' ↔
      (∀ (k : Nat) (_ : k < 4), ivCell iv[k] = ivCell iv'[k]) ∧ fan iv[0] = fan iv'[0] := by
  rw [ivEffective_eq_iff_bytes, and_ivEffective_zero]
  constructor
  · rintro ⟨⟨h0, hfan⟩, h1, h2, h3⟩
    refine ⟨fun k hk => ?_, hfan⟩
    match k, hk with
    | 0, _ => exact h0
    | 1, _ => exact (ivCell_eq_iff _ _).mpr h1
    | 2, _ => exact (ivCell_eq_iff _ _).mpr h2
    | 3, _ => exact (ivCell_eq_iff _ _).mpr h3
  · rintro ⟨hcell, hfan⟩
    have hmasked (k : Nat) (hk : k < 4) : iv[k] &&& ivMask = iv'[k] &&& ivMask :=
      (ivCell_eq_iff _ _).mp (hcell k hk)
    exact ⟨⟨hcell 0 (by decide), hfan⟩, hmasked 1 (by decide), hmasked 2 (by decide),
      hmasked 3 (by decide)⟩

/-- Settles O12: both sides say that the key, the IV cells and the fan-out agree. -/
theorem loadDependsOnExactly25IvBits : Obligations.LoadDependsOnExactly25IvBits := by
  intro key key' iv iv'
  rw [loadV_eq_iff, ivEffective_eq_iff]

/-- Settles O54: equal effective bits load equal registers, and a run starts from those. -/
theorem runIgnoresMaskedIvBits : Obligations.RunIgnoresMaskedIvBits := by
  intro t key iv iv' h
  have hload : loadV key iv = loadV key iv' := (loadDependsOnExactly25IvBits key key iv iv').mpr ⟨rfl, h⟩
  rw [runKs, runKs, initializeRegs, initializeRegs, hload]

/-- The extra bit is masked out of the cell of its byte (R81). -/
theorem ivCell_flip_extraBit (b : Byte) : ivCell (b ^^^ 0x80#8) = ivCell b := by
  revert b; decide

/-- Flipping the extra bit flips the fan-out (R82). -/
theorem fan_flip_extraBit (b : Byte) : fan (b ^^^ 0x80#8) = fan b ^^^ 0x55#7 := by
  rw [fan_eq, fan_eq, BitVec.getLsbD_xor]
  cases b.getLsbD 7 <;> decide

/-- Settles O13: cell 18 does not see the extra bit, and cell 22 sees nothing else of the IV. -/
theorem extraIvBitMovesOnlyCell22 : Obligations.ExtraIvBitMovesOnlyCell22 := by
  intro key iv
  refine ⟨fun j hj => ?cells, ?newest, ?values⟩
  case cells =>
    rw [getElem_loadV, getElem_loadV]
    split
    · rfl
    · rw [Vector.getElem_set]
      split
      next hzero => simp only [ivCell_flip_extraBit, ← hzero]
      next => rfl
  case newest =>
    rw [getElem_loadV_fan, getElem_loadV_fan, Vector.getElem_set_self, fan_flip_extraBit]
  case values =>
    rw [getElem_loadV_fan, fan_eq]
    cases iv[0].getLsbD 7
    · exact .inl rfl
    · exact .inr rfl

/-- Settles O14: both cores become the loaded state of the same operands. -/
theorem loadForgetsThePast : Obligations.LoadForgetsThePast := by
  intro a b ta tb hkey hiv ha hb
  obtain ⟨-, rfl⟩ := exec_load_next ha
  obtain ⟨-, rfl⟩ := exec_load_next hb
  rw [hkey, hiv]
  exact ⟨rfl, rfl, rfl, rfl⟩

end Sys2Proof.Machine
end

section
/-! Which cells the feedback value depends on, and what many rounds do to a cell
(spec/42_feedback_round.md R90, R92, R94). -/

namespace Sys2Proof.Machine

/-- The tap sum reads the tapped cells only. -/
theorem tapSum_congr {r r' : Regs} (h : ∀ j ∈ taps, r[j] = r'[j]) : tapSum r = tapSum r' :=
  List.foldl_ext _ _ _ fun _ j hj => by rw [h j hj]

/-- The feedback value reads the newest cell, the oldest cell and the tapped ones. -/
theorem feedback_congr (t : Tables) {r r' : Regs} (hnew : r[22] = r'[22]) (hold : r[0] = r'[0])
    (htaps : ∀ j ∈ taps, r[j] = r'[j]) : feedback t r = feedback t r' := by
  rw [feedback_eq, feedback_eq, hnew, hold, tapSum_congr htaps]

/-- No tapped cell is among the nine that R90 leaves out. -/
theorem notMem_untapped_of_mem_taps :
    ∀ j ∈ taps, j ∉ ([2, 3, 4, 6, 8, 16, 17, 19, 21] : List (Fin 23)) := by decide

/-- Every other cell is the newest, the oldest or a tapped one. -/
theorem enters_cases : ∀ j : Fin 23, j ∉ ([2, 3, 4, 6, 8, 16, 17, 19, 21] : List (Fin 23)) →
    j = permCell ∨ j = expCell ∨ j ∈ taps := by decide

/-- Settles O16: the cells the feedback value reads are not among the nine. -/
theorem untappedCellsDoNotEnter : Obligations.UntappedCellsDoNotEnter := by
  intro t r r' h
  exact feedback_congr t (h 22 (by decide)) (h 0 (by decide)) fun j hj => h j (notMem_untapped_of_mem_taps j hj)

/-- The XOR of cells from two different starting values is different. -/
theorem foldl_fieldAdd_injective (l : List (Fin 23)) (r : Regs) :
    Function.Injective fun a : Elem => l.foldl (fun acc j => fieldAdd acc r[j]) a := by
  induction l with
  | nil => exact fun _ _ h => h
  | cons i l ih => exact fun a b h => (BitVec.xor_left_inj r[i]).mp (ih h)

/-- Overwriting a cell leaves the others. -/
theorem getElem_set_of_ne (r : Regs) (x : Elem) {i j : Fin 23} (h : i ≠ j) : (r.set j x)[i] = r[i] :=
  Vector.getElem_set_ne j.isLt i.isLt (Fin.val_ne_of_ne h.symm)

/-- Changing a cell that is listed once changes the XOR of the listed cells. -/
theorem foldl_fieldAdd_set_ne {l : List (Fin 23)} {j : Fin 23} {r : Regs} {x : Elem} (hnodup : l.Nodup)
    (hmem : j ∈ l) (hx : x ≠ r[j]) (a : Elem) :
    l.foldl (fun acc i => fieldAdd acc (r.set j x)[i]) a ≠ l.foldl (fun acc i => fieldAdd acc r[i]) a := by
  induction l generalizing a with
  | nil => cases hmem
  | cons i l ih =>
    obtain ⟨hi, hl⟩ := List.nodup_cons.mp hnodup
    simp only [List.foldl_cons]
    obtain rfl | hjl := List.mem_cons.mp hmem
    · have hrest (b : Elem) : l.foldl (fun acc i => fieldAdd acc (r.set j x)[i]) b =
          l.foldl (fun acc i => fieldAdd acc r[i]) b :=
        List.foldl_ext _ _ _ fun _ k hk => by rw [getElem_set_of_ne r x (ne_of_mem_of_not_mem hk hi)]
      have hcell : (r.set j x)[j] = x := Vector.getElem_set_self j.isLt
      rw [hrest, hcell]
      exact fun h => hx ((BitVec.xor_right_inj a).mp (foldl_fieldAdd_injective l r h))
    · rw [getElem_set_of_ne r x (ne_of_mem_of_not_mem hjl hi).symm]
      exact ih hl hjl _

/-- Changing a tapped cell changes the tap sum, where each tap stands once. -/
theorem tapSum_set_ne {j : Fin 23} (hj : j ∈ taps) {r : Regs} {x : Elem} (hx : x ≠ r[j]) :
    tapSum (r.set j x) ≠ tapSum r :=
  foldl_fieldAdd_set_ne (by decide) hj hx 0#7

/-- Changing a cell that is not tapped leaves the tap sum. -/
theorem tapSum_set_of_notMem {j : Fin 23} (hj : j ∉ taps) (r : Regs) (x : Elem) :
    tapSum (r.set j x) = tapSum r :=
  tapSum_congr fun _ hi => getElem_set_of_ne r x (ne_of_mem_of_not_mem hi hj)

/-- The three terms of the feedback value, the two ends of the register under their names (R90). -/
theorem feedback_eq_ends (t : Tables) (r : Regs) :
    feedback t r = t.perm r[permCell] ^^^ tapSum r ^^^ t.exp r[expCell] := rfl

/-- Settles O17: the changed cell is the newest, which `PERM` tells apart, the oldest, which `EXP` does, or a
tapped one; the other two terms stay and cancel. -/
theorem everyEnteringCellMatters : Obligations.EveryEnteringCellMatters := by
  intro r j x hj hx heq
  have hcell : (r.set j x)[j] = x := Vector.getElem_set_self j.isLt
  rw [feedback_eq_ends, feedback_eq_ends] at heq
  obtain rfl | rfl | htap := enters_cases j hj
  · rw [hcell, tapSum_set_of_notMem (by decide), getElem_set_of_ne r x (by decide)] at heq
    have hperm : Config.tables.perm x = Config.tables.perm r[permCell] :=
      (BitVec.xor_left_inj _).mp ((BitVec.xor_left_inj _).mp heq)
    exact hx (Config.tables_perm_injective hperm)
  · rw [hcell, tapSum_set_of_notMem (by decide), getElem_set_of_ne r x (by decide)] at heq
    have hexp : Config.tables.exp x = Config.tables.exp r[expCell] := (BitVec.xor_right_inj _).mp heq
    exact hx (Config.tables_exp_injective hexp)
  · have hnew : permCell ≠ j := (ne_of_mem_of_not_mem htap (by decide)).symm
    have hold : expCell ≠ j := (ne_of_mem_of_not_mem htap (by decide)).symm
    rw [getElem_set_of_ne r x hnew, getElem_set_of_ne r x hold] at heq
    exact tapSum_set_ne htap hx ((BitVec.xor_right_inj _).mp ((BitVec.xor_left_inj _).mp heq))

/-- The register states are finitely many. -/
theorem finite_regs : Finite Regs :=
  Finite.of_surjective (Vector.ofFn : (Fin 23 → Elem) → Regs) fun r => ⟨fun j => r[j], by ext; simp⟩

/-- Settles O19: a round is injective, since its newest cell gives back the oldest one that it dropped, and the
register states are finitely many. -/
theorem roundIsInvertible : Obligations.RoundIsInvertible := by
  intro t hexp
  have := finite_regs
  refine Finite.injective_iff_bijective.mp fun r r' h => ?_
  simp only [stepRegs_fst] at h
  have hup (j : Nat) (hj : j + 1 < 23) : r[j + 1] = r'[j + 1] := by
    have hlt : j < 22 := Nat.lt_of_succ_lt_succ hj
    rw [← getElem_shiftIn_of_lt r (feedback t r) j hlt, ← getElem_shiftIn_of_lt r' (feedback t r') j hlt]
    simp only [h]
  have hfb : feedback t r = feedback t r' := by
    rw [← getElem_shiftIn_newest r (feedback t r), h, getElem_shiftIn_newest]
  have hold : r[0] = r'[0] := by
    have htaps : tapSum r = tapSum r' := tapSum_congr fun ⟨j, hj⟩ hmem => by
      cases j with
      | zero => exact absurd hmem (by decide : (0 : Fin 23) ∉ taps)
      | succ j => exact hup j hj
    rw [feedback_eq, feedback_eq, hup 21 (by decide), htaps] at hfb
    exact hexp.injective ((BitVec.xor_right_inj _).mp hfb)
  ext j hj : 1
  cases j with
  | zero => exact hold
  | succ j => exact hup j hj

/-- Settles O20: by the rounds, the last of which moves each cell one down and appends its feedback value. -/
theorem cellsTravelDownTheRegister : Obligations.CellsTravelDownTheRegister := by
  intro t r k
  induction k with
  | zero => intro j hj; exact (dif_pos hj).symm
  | succ k ih =>
    intro j hj
    rw [roundsFrom_succ, getElem_shiftIn]
    by_cases hlt : j < 22
    · rw [dif_pos hlt, ih (j + 1) (Nat.succ_lt_succ hlt)]
      simp only [Nat.add_right_comm j 1 k, ← Nat.add_assoc]
    · obtain rfl : j = 22 := by omega
      have hbeyond : ¬ 22 + (k + 1) < 23 := by omega
      have hround : 22 + (k + 1) - 23 = k := by omega
      rw [dif_neg hlt, dif_neg hbeyond, hround]

/-- Settles O21: the taps of a zero register are zero, and so is `EXP[0]` (R69). -/
theorem zeroRegisterFeedsPermOfZero : Obligations.ZeroRegisterFeedsPermOfZero := by
  have htaps : tapSum zeroRegs = 0#7 := by decide
  have hfb : feedback Config.tables zeroRegs = Config.tables.perm 0#7 := by
    rw [feedback_eq, htaps, getElem_zeroRegs, getElem_zeroRegs, Config.tables_exp_zero, BitVec.xor_zero,
      BitVec.xor_zero]
  exact hfb

end Sys2Proof.Machine
end

section
/-! RESET and START against the step: a raised `rst` wins, and a raised `start` is START with the operands on the
ports (spec/44_host_interface.md R115, R116, R119; spec/60_exceptions.md R137; spec/70_reset_and_hazards.md R150,
R151). -/

namespace Sys2Proof.Machine

section Start
variable {key : Key} {iv : Iv} {s : State}

theorem exec_start_of_rst (h : s.inputs.rst = true) : exec (.start key iv) s = .next s.cleared := by
  simp [exec, execStart, selectTransition, h]

theorem exec_start_of_reserved (hrst : s.inputs.rst = false) (hph : s.ph = .reserved) :
    exec (.start key iv) s = .fault .stuckPhase := by
  simp [exec, execStart, selectTransition, hrst, hph]

theorem exec_start_of_seq_gt (hrst : s.inputs.rst = false) (hph : s.ph ≠ .reserved)
    (hseq : seqEnd < s.seq.toNat) : exec (.start key iv) s = .fault .stuckSequence := by
  have hstuck : selectTransition { s.inputs with start := true, key := key, iv := iv } s.ph s.seq =
      .stuckSequence :=
    transition_of_seq_gt (s := s.onPorts fun p => { p with start := true, key := key, iv := iv })
      hrst hph hseq
  simp only [exec, execStart, hstuck]

theorem step_of_reserved (hrst : s.inputs.rst = false) (hph : s.ph = .reserved) :
    step s = .fault .stuckPhase := by
  simp [step, transition_of_reserved hrst hph, passTransition]

theorem step_of_seq_gt (hrst : s.inputs.rst = false) (hph : s.ph ≠ .reserved)
    (hseq : seqEnd < s.seq.toNat) : step s = .fault .stuckSequence := by
  simp [step, transition_of_seq_gt hrst hph hseq, passTransition]

end Start

/-- Settles O28: with `rst` raised RESET is selected whatever else is. -/
theorem resetBeatsStart : Obligations.ResetBeatsStart := by
  intro s key iv hrst
  refine ⟨?_, step_of_rst hrst⟩
  rw [exec_start_of_rst hrst, exec_reset]

/-- Settles O29: by the row that applies; a hold does not, since `start` is raised. -/
theorem raisedStartStepsAsStart : Obligations.RaisedStartStepsAsStart := by
  intro s hstart
  rcases transition_cases s with ⟨hs, -⟩ | ⟨hs, -⟩ | ⟨hs, -⟩ | ⟨hs, -⟩ | ⟨hs, -⟩ | ⟨hs, -⟩ |
      ⟨⟨hrst, hph⟩, -⟩ | ⟨⟨hrst, hph, hseq⟩, -⟩
  · rw [step_of_rst hs, exec_start_of_rst hs, passTransition]
  · have ⟨hrst, hrest, hseq, _⟩ := hs
    rw [step_of_load hs, exec_start_of_rest hrst hrest hseq, passTransition]
  · obtain ⟨-, -, -, hlow⟩ := hs
    rw [hstart] at hlow
    cases hlow
  · rw [step_of_initr hs, exec_start_of_selectsInitr _ _ hs, passTransition]
  · rw [step_of_genr hs, exec_start_of_selectsGenr _ _ hs, passTransition]
  · rw [step_of_fin hs, exec_start_of_selectsFin _ _ hs, passTransition]
  · rw [step_of_reserved hrst hph, exec_start_of_reserved hrst hph, passTransition]
  · rw [step_of_seq_gt hrst hph hseq, exec_start_of_seq_gt hrst hph hseq, passTransition]

/-- Settles O35: the two stuck rows stop the step and START alike, and a raised `rst` is taken before them. -/
theorem stuckStatesStopByName : Obligations.StuckStatesStopByName := by
  intro s key iv
  exact ⟨fun hrst hph => ⟨step_of_reserved hrst hph, exec_start_of_reserved hrst hph⟩,
    fun hrst hph hseq => ⟨step_of_seq_gt hrst hph hseq, exec_start_of_seq_gt hrst hph hseq⟩,
    fun hrst => ⟨_, step_of_rst hrst, rfl, rfl⟩⟩

/-- Settles O31: the reset state field by field. -/
theorem stateAfterReset : Obligations.StateAfterReset :=
  ⟨State.reset_r, State.reset_ks, State.reset_seq, State.reset_ph, rfl, rfl, State.reset_host⟩

/-- Settles O24: FIN is selected, so it answers the finished state. -/
theorem finZeroesTheRegisterAndEnds : Obligations.FinZeroesTheRegisterAndEnds := by
  intro s hrst hph hseq
  have hsel : s.selectsFin := ⟨hrst, hph, hseq⟩
  exact ⟨_, exec_fin_of_selected hsel, rfl, rfl, rfl, rfl, rfl, rfl, rfl⟩

/-- Settles O47: the port tests the flag. -/
theorem ksPortOnlyWhileDone : Obligations.KsPortOnlyWhileDone := by
  intro s
  refine ⟨fun hdone => if_pos hdone, fun hdone => if_neg ?_⟩
  rw [hdone]
  exact Bool.false_ne_true

end Sys2Proof.Machine
end

section
/-! Placing an instruction puts the core into the row that selects it (spec/44_host_interface.md R119). -/

namespace Sys2Proof.Machine

/-- A core placed for a LOAD or a START is at rest. -/
theorem placedPhase_at_rest (ph : Phase) :
    (if ph = .done then Phase.done else .idle) = .idle ∨ (if ph = .done then Phase.done else .idle) = .done := by
  split
  · exact .inr rfl
  · exact .inl rfl

/-- A value kept where it is in the row, and set to the row's first one elsewhere, is in the row. -/
theorem placedSeq_in_row {p : BitVec 8 → Prop} [DecidablePred p] {first : BitVec 8} (hfirst : p first)
    (q : BitVec 8) : p (if p q then q else first) := by
  split
  · assumption
  · exact hfirst

section Placed
variable (s : State)

theorem State.selectsLoad_placed_load : (s.placed .load).selectsLoad :=
  ⟨rfl, placedPhase_at_rest s.ph, placedSeq_in_row (p := fun q => q.toNat ≤ seqEnd) (by decide) s.seq, rfl⟩

theorem State.selectsLoad_placed_start (key : Key) (iv : Iv) : (s.placed (.start key iv)).selectsLoad :=
  ⟨rfl, placedPhase_at_rest s.ph, placedSeq_in_row (p := fun q => q.toNat ≤ seqEnd) (by decide) s.seq, rfl⟩

theorem State.selectsInitr_placed : (s.placed .initr).selectsInitr :=
  ⟨rfl, rfl, placedSeq_in_row (p := fun q => q.toNat < nInit) (by decide) s.seq⟩

theorem State.selectsGenr_placed : (s.placed .genr).selectsGenr :=
  ⟨rfl, rfl, placedSeq_in_row (p := fun q => nInit ≤ q.toNat ∧ q.toNat < seqEnd) (by decide) s.seq⟩

theorem State.selectsFin_placed : (s.placed .fin).selectsFin := ⟨rfl, rfl, rfl⟩

end Placed

/-- A placed instruction completes, and the step takes it. -/
theorem placed_completes (s : State) (i : Instr) :
    ∃ t, exec i (s.placed i) = .next t ∧ step (s.placed i) = .next t.passed := by
  cases i with
  | load =>
    have hsel := s.selectsLoad_placed_load
    exact ⟨_, exec_load_of_selected hsel, step_of_load hsel⟩
  | initr => exact ⟨_, exec_initr_of_selected s.selectsInitr_placed, step_of_initr s.selectsInitr_placed⟩
  | genr => exact ⟨_, exec_genr_of_selected s.selectsGenr_placed, step_of_genr s.selectsGenr_placed⟩
  | fin => exact ⟨_, exec_fin_of_selected s.selectsFin_placed, step_of_fin s.selectsFin_placed⟩
  | start key iv =>
    have hsel@⟨hrst, hrest, hseq, _⟩ := s.selectsLoad_placed_start key iv
    exact ⟨_, exec_start_of_rest hrst hrest hseq, step_of_load hsel⟩
  | reset => exact ⟨_, exec_reset _, step_of_rst rfl⟩

/-- Settles O33: a table word that decodes is placed as its instruction, and a placed instruction is run. -/
theorem placedInstructionIsRun : Obligations.PlacedInstructionIsRun := by
  refine ⟨placed_completes, fun s nbits w i hword => ?_⟩
  have hplaced : s.withFetchWord nbits w = s.placed i := by rw [State.withFetchWord, hword]
  obtain ⟨t, hexec, hstep⟩ := placed_completes s i
  rw [hplaced, hexec, hstep, passTransition]

end Sys2Proof.Machine
end

section
/-! What one transition may do to PH, SEQ and the keystream, and what it depends on (spec/10_state.md R14 to R17;
spec/20_memory.md R33; spec/42_feedback_round.md R96; spec/43_keystream_generator.md R104). -/

namespace Sys2Proof.Machine

/-- Settles O40: a hold and the rounds keep PH, so the other three are left. -/
theorem phaseHasThreeWriters : Obligations.PhaseHasThreeWriters := by
  refine ⟨⟨rfl, rfl, rfl, rfl⟩, fun s t hstep hne => ?_⟩
  rcases step_next hstep with ⟨hrst, rfl⟩ | ⟨hsel, rfl⟩ | ⟨-, rfl⟩ | ⟨-, rfl⟩ | ⟨-, rfl⟩ | ⟨hsel, rfl⟩
  · exact .inr (.inr ⟨transition_of_rst hrst, rfl⟩)
  · exact .inl ⟨transition_of_selectsLoad hsel, rfl⟩
  · exact absurd rfl hne
  · exact absurd rfl hne
  · exact absurd rfl hne
  · exact .inr (.inl ⟨transition_of_selectsFin hsel, rfl⟩)

/-- Settles O42: only FIN leads to DONE from another phase. -/
theorem onlyFinRaisesDone : Obligations.OnlyFinRaisesDone := by
  intro s t hstep hlow hhigh
  have hdone : t.ph = .done := t.done_iff.mp hhigh
  have hne : t.ph ≠ s.ph := fun h => by
    rw [s.done_iff.mpr (h ▸ hdone)] at hlow
    cases hlow
  rcases phaseHasThreeWriters.2 s t hstep hne with ⟨-, hph⟩ | ⟨hfin, -⟩ | ⟨-, hph⟩
  · rw [hdone] at hph; cases hph
  · have hsel : s.selectsFin := transition_eq_fin_iff.mp hfin
    have ⟨_, hph, hseq⟩ := hsel
    obtain rfl : s.finished.passed = t := Host.Outcome.next.inj ((step_of_fin hsel).symm.trans hstep)
    exact ⟨hfin, hph, hseq, rfl⟩
  · rw [hdone] at hph; cases hph

/-- A keystream write clears no bit (R33). -/
theorem ksBit_ksBitSet_of_set {ks : Keystream} {n : Nat} (i : Nat) (z : Bit) (hn : n < 96)
    (h : ksBit ks n = true) : ksBit (ksBitSet ks i z) n = true := by
  rw [ksBit_ksBitSet _ _ _ _ hn, h, Bool.true_or]

/-- Settles O43: every transition but LOAD and RESET keeps KS or ORs one bit into it. -/
theorem keystreamBitsAreNeverCleared : Obligations.KeystreamBitsAreNeverCleared := by
  intro s t i hi hstep hset hclear
  have kept (h : ksBit t.ks i = true) : s.transition = .load ∨ s.transition = .reset := by
    rw [h] at hclear
    cases hclear
  rcases step_next hstep with ⟨hrst, rfl⟩ | ⟨hsel, rfl⟩ | ⟨-, rfl⟩ | ⟨-, rfl⟩ | ⟨-, rfl⟩ | ⟨-, rfl⟩
  · exact .inr (transition_of_rst hrst)
  · exact .inl (transition_of_selectsLoad hsel)
  · exact kept hset
  · exact kept hset
  · exact kept (ksBit_ksBitSet_of_set _ _ hi hset)
  · exact kept hset

/-- Settles O41: the effect of each transition on SEQ, and the range from the shape of the next state. -/
theorem seqCountsRounds : Obligations.SeqCountsRounds := by
  intro s t hinv hstep
  have reached {u : State} (h : step s = .next u) : t = u := Host.Outcome.next.inj (hstep.symm.trans h)
  refine ⟨fun htr => ?load, fun htr => ?initr, fun htr => ?genr, fun htr => ?fin, fun htr => ?reset,
    fun htr => ?hold, (everyStepKeepsTheShape s t hinv hstep).seq_le⟩
  case load => rw [reached (step_of_load (transition_eq_load_iff.mp htr))]; rfl
  case initr =>
    have hsel@⟨_, _, hlt⟩ := transition_eq_initr_iff.mp htr
    rw [reached (step_of_initr hsel)]
    exact toNat_seq_succ (hlt.trans (by decide))
  case genr =>
    have hsel@⟨_, _, _, hlt⟩ := transition_eq_genr_iff.mp htr
    rw [reached (step_of_genr hsel)]
    exact toNat_seq_succ hlt
  case fin =>
    have hsel@⟨_, _, hend⟩ := transition_eq_fin_iff.mp htr
    rw [reached (step_of_fin hsel)]
    exact ⟨rfl, hend⟩
  case reset =>
    have hrst : s.inputs.rst = true := State.meetsRow_of_transition_eq htr
    rw [reached (step_of_rst hrst)]
    rfl
  case hold =>
    have hsel : s.selectsHold := State.meetsRow_of_transition_eq htr
    rw [reached (step_of_hold hsel)]
    rfl

/-- Settles O44: a row's condition is on PH, SEQ, `rst` and `start`, and so is what it makes of PH and SEQ. -/
theorem controlDoesNotDependOnData : Obligations.ControlDoesNotDependOnData := by
  intro a b ta hph hseq hrst hstart hstep
  rcases step_next hstep with ⟨hs, rfl⟩ | ⟨hs, rfl⟩ | ⟨hs, rfl⟩ | ⟨hs, rfl⟩ | ⟨hs, rfl⟩ | ⟨hs, rfl⟩ <;>
    simp only [State.selectsLoad, State.selectsHold, State.selectsInitr, State.selectsGenr,
      State.selectsFin, hph, hseq, hrst, hstart] at hs
  · exact ⟨_, step_of_rst hs, rfl, rfl⟩
  · exact ⟨_, step_of_load hs, by simp, by simp⟩
  · exact ⟨_, step_of_hold hs, hph, hseq⟩
  · exact ⟨_, step_of_initr hs, hph, by simp [hseq]⟩
  · exact ⟨_, step_of_genr hs, hph, by simp [hseq]⟩
  · exact ⟨_, step_of_fin hs, rfl, hseq⟩

end Sys2Proof.Machine
end

section
/-! Several transitions: holds of any length, the outputs and the trace of a run, and two runs under different
schedules (spec/30_encoding.md R61; spec/44_host_interface.md R116, R118, R120, R123; spec/60_exceptions.md R144). -/

namespace Sys2Proof.Machine

section SameCore
variable {a b c : State}

theorem State.sameCore.trans (hab : a.sameCore b) (hbc : b.sameCore c) : a.sameCore c := by
  obtain ⟨hr, hks, hseq, hph⟩ := hab
  obtain ⟨hr', hks', hseq', hph'⟩ := hbc
  exact ⟨hr.trans hr', hks.trans hks', hseq.trans hseq', hph.trans hph'⟩

/-- Equal cores differ in nothing but the schedule. -/
theorem State.sameCore.eq_with_host (h : a.sameCore b) : b = { a with host := b.host } := by
  obtain ⟨hr, hks, hseq, hph⟩ := h
  rw [hr, hks, hseq, hph]

/-- The outputs are functions of the core (R17, R117). -/
theorem State.sameCore.outputs_eq (h : a.sameCore b) : a.outputs = b.outputs := by
  rw [h.eq_with_host]
  rfl

end SameCore

/-- What every entry of the schedule's first transitions satisfies, the ports of the next one do, if quiet ports
do. -/
theorem State.inputs_of_forall_take {p : Inputs → Prop} {n : Nat} {s : State} (hquiet : p Inputs.quiet)
    (h : ∀ q ∈ s.host.take (n + 1), p q) : p s.inputs := by
  rcases s.inputs_cases with e | ⟨rest, e⟩
  · rw [e]; exact hquiet
  · exact h _ (by rw [e]; simp)

theorem mem_take_succ_of_mem_take_tail {α : Type} {n : Nat} {x : α} {l : List α} (h : x ∈ l.tail.take n) :
    x ∈ l.take (n + 1) := by
  cases l with
  | nil => simp at h
  | cons y l => exact List.mem_cons_of_mem y h

/-- Settles O45: each transition is a hold, which leaves the core as it is and selects the next hold. -/
theorem stateSurvivesAnyHold : Obligations.StateSurvivesAnyHold := by
  intro n
  induction n with
  | zero => exact fun s _ _ _ => ⟨s, rfl, ⟨rfl, rfl, rfl, rfl⟩, rfl⟩
  | succ n ih =>
    intro s hrest hseq hlow
    have ⟨hrst, hstart⟩ : s.inputs.rst = false ∧ s.inputs.start = false :=
      State.inputs_of_forall_take (p := fun q => q.rst = false ∧ q.start = false) ⟨rfl, rfl⟩ hlow
    have hlater : ∀ p ∈ s.passed.host.take n, p.rst = false ∧ p.start = false :=
      fun p hp => hlow p (mem_take_succ_of_mem_take_tail hp)
    obtain ⟨t, hmany, hcore, -⟩ := ih s.passed hrest hseq hlater
    have hsame : t.sameCore s := hcore.trans s.sameCore_passed
    refine ⟨t, ?_, hsame, hsame.outputs_eq⟩
    rw [stepMany_succ_of_next n (step_of_hold ⟨hrst, hrest, hseq, hstart⟩), hmany]

/-- A core in a run shows that it is busy and nothing else (R118). -/
theorem State.RunningAt.outputs_eq {key : Key} {iv : Iv} {n : Nat} {s : State} (h : s.RunningAt key iv n) :
    s.outputs = ⟨true, false, none⟩ := by
  simp [State.outputs, State.busy, State.done, State.ksPort, h.busy]

/-- Settles O50: n transitions are the LOAD and n - 1 rounds. -/
theorem doneStaysLowDuringARun : Obligations.DoneStaysLowDuringARun := by
  intro s n hrest hseq hstart hreset hpos hn
  obtain ⟨k, rfl⟩ := Nat.exists_eq_succ_of_ne_zero (Nat.ne_of_gt hpos)
  obtain ⟨t, hmany, hrun, -⟩ :=
    stepMany_running hrest hseq hstart k (Nat.le_of_succ_le_succ hn) (hreset.mono hn)
  exact ⟨t, hmany, hrun.outputs_eq, hrun.seq⟩

/-- The k-th transition of a run, counted from 0 (R61). -/
def runTransition : Nat → Transition
  | 0 => .load
  | n + 1 => if n < nInit then .initr else if n < seqEnd then .genr else .fin

/-- A core n rounds after its LOAD takes the transition after those n. -/
theorem State.RunningAt.transition_eq {key : Key} {iv : Iv} {n : Nat} {s : State} (h : s.RunningAt key iv n)
    (hn : n ≤ seqEnd) (hrst : s.inputs.rst = false) : s.transition = runTransition (n + 1) := by
  obtain ⟨hph, rfl, -⟩ := h
  simp only [runTransition]
  split
  next hlt => exact transition_of_selectsInitr ⟨hrst, hph, hlt⟩
  next hge =>
    split
    next hlt => exact transition_of_selectsGenr ⟨hrst, hph, Nat.not_lt.mp hge, hlt⟩
    next hend => exact transition_of_selectsFin ⟨hrst, hph, Nat.le_antisymm hn (Nat.not_lt.mp hend)⟩

theorem traceOf_one (s : State) : traceOf 1 s = [s.transition] := by
  simp only [traceOf]
  cases step s <;> rfl

/-- One more line at the end of a trace. -/
theorem traceOf_succ_of_last {n : Nat} {s u : State} (h : stepMany n s = .next u) :
    traceOf (n + 1) s = traceOf n s ++ [u.transition] := by
  induction n generalizing s with
  | zero =>
    obtain rfl : s = u := Host.Outcome.next.inj h
    exact traceOf_one s
  | succ n ih =>
    cases hstep : step s with
    | next t =>
      rw [stepMany_succ_of_next n hstep] at h
      rw [traceOf_succ_of_next _ hstep, traceOf_succ_of_next _ hstep, ih h, List.cons_append]
    | fault f => simp [stepMany, hstep] at h
    | refused q => simp [stepMany, hstep] at h

/-- A trace lists the transition of each state that the steps pass through. -/
theorem traceOf_eq_map_range (f : Nat → Transition) (n : Nat) (s : State)
    (h : ∀ k < n, ∃ t, stepMany k s = .next t ∧ t.transition = f k) :
    traceOf n s = (List.range n).map f := by
  induction n with
  | zero => rfl
  | succ n ih =>
    obtain ⟨t, hmany, htr⟩ := h n (Nat.lt_succ_self n)
    rw [traceOf_succ_of_last hmany, ih fun k hk => h k (Nat.lt_succ_of_lt hk), htr, List.range_succ,
      List.map_append, List.map_singleton]

/-- The transitions of a run are those of the pseudo-operation RUN (R61). -/
theorem map_runTransition : ((List.range 144).map runTransition).map Transition.instr =
    (expandPseudo .fullRun).map some := by
  decide +kernel

/-- Settles O51: the LOAD, then a transition for each number of rounds done. -/
theorem fullRunListsAsItsExpansion : Obligations.FullRunListsAsItsExpansion := by
  intro s hrest hseq hstart hreset
  have htrace : traceOf 144 s = (List.range 144).map runTransition := by
    refine traceOf_eq_map_range _ _ _ fun k hk => ?_
    cases k with
    | zero => exact ⟨s, rfl, transition_of_selectsLoad ⟨hreset.now, hrest, hseq, hstart⟩⟩
    | succ n =>
      have hn : n ≤ seqEnd := Nat.le_of_lt_succ (Nat.lt_of_succ_lt_succ hk)
      obtain ⟨t, hmany, hrun, hhost⟩ := stepMany_running hrest hseq hstart n hn (hreset.mono hk.le)
      exact ⟨t, hmany, hrun.transition_eq hn ((hreset.mono hk).after hhost)⟩
  rw [htrace, map_runTransition]

/-- Equal busy cores go the same round on, whatever their ports carry. -/
theorem step_round_sameCore {a b : State} (h : a.sameCore b) (hph : a.ph = .busy) (hseq : a.seq.toNat < seqEnd)
    (ha : a.inputs.rst = false) (hb : b.inputs.rst = false) :
    ∃ ta tb, step a = .next ta ∧ step b = .next tb ∧ ta.sameCore tb ∧ ta.ph = .busy ∧
      ta.seq.toNat = a.seq.toNat + 1 ∧ ta.host = a.host.tail ∧ tb.host = b.host.tail := by
  rw [h.eq_with_host] at hb ⊢
  rcases Nat.lt_or_ge a.seq.toNat nInit with hlt | hge
  · exact ⟨_, _, step_of_initr ⟨ha, hph, hlt⟩, step_of_initr ⟨hb, hph, hlt⟩, ⟨rfl, rfl, rfl, rfl⟩, hph,
      toNat_seq_succ hseq, rfl, rfl⟩
  · exact ⟨_, _, step_of_genr ⟨ha, hph, hge, hseq⟩, step_of_genr ⟨hb, hph, hge, hseq⟩,
      ⟨rfl, rfl, rfl, rfl⟩, hph, toNat_seq_succ hseq, rfl, rfl⟩

/-- Equal busy cores at the end of their rounds both take FIN. -/
theorem step_fin_sameCore {a b : State} (h : a.sameCore b) (hph : a.ph = .busy) (hseq : a.seq.toNat = seqEnd)
    (ha : a.inputs.rst = false) (hb : b.inputs.rst = false) :
    ∃ ta tb, step a = .next ta ∧ step b = .next tb ∧ ta.sameCore tb := by
  rw [h.eq_with_host] at hb ⊢
  exact ⟨_, _, step_of_fin ⟨ha, hph, hseq⟩, step_of_fin ⟨hb, hph, hseq⟩, ⟨rfl, rfl, rfl, rfl⟩⟩

/-- Settles O52: round by round while SEQ is below 142; at 142 one transition is left, which is FIN. -/
theorem portsCannotDisturbARun : Obligations.PortsCannotDisturbARun := by
  intro n
  induction n with
  | zero => exact fun a b h _ _ _ _ => ⟨a, b, rfl, rfl, h⟩
  | succ n ih =>
    intro a b h hph hn hra hrb
    have hlast : seqEnd = 142 := rfl
    rcases Nat.lt_or_ge a.seq.toNat seqEnd with hlt | hge
    · obtain ⟨a', b', hsa, hsb, h', hph', hseq', hha, hhb⟩ := step_round_sameCore h hph hlt hra.now hrb.now
      have hn' : a'.seq.toNat + n ≤ 143 := by omega
      obtain ⟨ta, tb, hma, hmb, hsame⟩ := ih a' b' h' hph' hn' (hra.later hha) (hrb.later hhb)
      exact ⟨ta, tb, (stepMany_succ_of_next n hsa).trans hma, (stepMany_succ_of_next n hsb).trans hmb, hsame⟩
    · have hend : a.seq.toNat = seqEnd := by omega
      obtain rfl : n = 0 := by omega
      obtain ⟨ta, tb, hsa, hsb, hsame⟩ := step_fin_sameCore h hph hend hra.now hrb.now
      exact ⟨ta, tb, stepMany_succ_of_next 0 hsa, stepMany_succ_of_next 0 hsb, hsame⟩

end Sys2Proof.Machine
end

section
/-! The byte-level wrapper: the order of its checks, and what an accepted call delivers
(spec/44_host_interface.md R121, R123; spec/60_exceptions.md R131, R134). -/

namespace Sys2Proof.Machine

theorem runBytes_of_check_eq_some {t : Tables} {kb ib : List Byte} {n : Nat} {w : WrapperResult}
    (h : checkBytes kb ib n = some w) : runBytes t kb ib n = w := by
  rw [runBytes, h]

theorem runBytes_of_check_eq_none {t : Tables} {kb ib : List Byte} {n : Nat}
    (h : checkBytes kb ib n = none) : runBytes t kb ib n = .ok (runKs t (keyOfBytes kb) (ivOfBytes ib)) := by
  rw [runBytes, h]

/-- The byte image of a key, element by element (R51). -/
theorem keyBytes_eq_map (key : Key) : keyBytes key = key.toList.map fun a => a.setWidth 8 := rfl

theorem ivBytes_eq_toList (iv : Iv) : ivBytes iv = iv.toList := rfl

/-- Settles O55: the checks one after the other, and behind them the byte images read back. -/
theorem runBytesChecksInOrder : Obligations.RunBytesChecksInOrder := by
  intro t kb ib n
  refine ⟨fun hk => runBytes_of_check_eq_some ?_, fun hk hi => runBytes_of_check_eq_some ?_,
    fun hk hi hn => runBytes_of_check_eq_some ?_, fun hk hi hn ⟨b, hb, hge⟩ => runBytes_of_check_eq_some ?_,
    fun hk hi hn hrange => ?accepted⟩
  · simp [checkBytes, keyLengthOk, hk]
  · simp [checkBytes, keyLengthOk, ivLengthOk, hk, hi]
  · simp [checkBytes, keyLengthOk, ivLengthOk, outLengthOk, hk, hi, hn]
  · have hbad : keyRangeOk kb = false :=
      Bool.eq_false_iff.mpr fun hok => Nat.not_lt.mpr hge ((keyRangeOk_iff kb).mp hok b hb)
    simp [checkBytes, keyLengthOk, ivLengthOk, outLengthOk, hk, hi, hn, hbad]
  case accepted =>
    have hok : checkBytes kb ib n = none := (checkBytes_eq_none kb ib n).mpr ⟨hk, hi, hn, hrange⟩
    refine ⟨keyOfBytes kb, ivOfBytes ib, ?_, ?_, runBytes_of_check_eq_none hok⟩
    · rw [← keyBytes_eq_map, keyBytes_keyOfBytes hk hrange]
    · rw [← ivBytes_eq_toList, ivBytes_ivOfBytes hi]

/-- A core at rest completes a whole run of the operands it is started with, and keeps the host's own schedule
(R106, R123). -/
theorem completedRun_of_rest (key : Key) (iv : Iv) {core : State} (hrest : core.ph = .idle ∨ core.ph = .done)
    (hseq : core.seq.toNat ≤ seqEnd) :
    ∃ t, completedRun key iv core = .next t ∧ t.ph = .done ∧ t.ks = runKs Config.tables key iv ∧
      t.r = zeroRegs ∧ t.host = core.host := by
  have hreset : ({ core with host := [Inputs.startWith key iv] } : State).NoResetFor 144 := fun p hp => by
    rw [List.mem_singleton.mp (List.mem_of_mem_take hp)]
    rfl
  obtain ⟨t, hmany, hout, hr, -, -⟩ :=
    runDeliversItsKeystream { core with host := [Inputs.startWith key iv] } hrest hseq rfl hreset
  have hdone : t.done = true := congrArg Outputs.done hout
  have hks : t.ksPort = some (runKs Config.tables key iv) := congrArg Outputs.ks hout
  rw [State.ksPort, if_pos hdone] at hks
  refine ⟨{ t with host := core.host }, ?_, t.done_iff.mp hdone, Option.some.inj hks, hr, rfl⟩
  have hrun : stepMany runLength { core with host := [Inputs.startWith key iv] } = .next t := hmany
  rw [completedRun, hrun]

theorem checkBytes_images (key : Key) (iv : Iv) : checkBytes (keyBytes key) (ivBytes iv) 12 = none :=
  (checkBytes_eq_none _ _ _).mpr
    ⟨length_keyBytes key, length_ivBytes iv, rfl, (keyRangeOk_iff _).mp (keyRangeOk_keyBytes key)⟩

/-- Settles O57: the checks pass, the operands are read back, and the core completes their run. -/
theorem acceptedCallDeliversTheKeystream : Obligations.AcceptedCallDeliversTheKeystream := by
  intro key iv c hlen hrest hseq
  obtain ⟨t, hrun, hph, hks, hr, hhost⟩ := completedRun_of_rest key iv hrest hseq
  have hport : t.ksPort = some (runKs Config.tables key iv) := by
    rw [State.ksPort, if_pos (t.done_iff.mpr hph), hks]
  refine ⟨t, ?_, hph, hks, hr, hhost⟩
  rw [← keyBytes_eq_map, ← ivBytes_eq_toList]
  simp only [callRunBytes, hlen, checkBytes_images, if_pos hrest, keyOfBytes_keyBytes, ivOfBytes_ivBytes,
    hrun, hport]

end Sys2Proof.Machine
end
